-- ==== Sys2Proof/Word.lean ====
section
/-! DEFINITION. The two word types the spec treats as bits: the 32-bit bus word and the byte lane. -/

namespace Sys2Proof

/-- One word of the register window, of the command register and of every CSR (10_state.md R23, 20_memory.md R46). -/
abbrev Word := BitVec 32

/-- One byte lane of a word (20_memory.md R45). -/
abbrev Byte := BitVec 8

end Sys2Proof
end

