-- ==== Sys2Proof/Syntax.lean ====
section
/-! DEFINITION. The ten commands of spec/opcode_table.json, one constructor each. Operands are big-register indexes in
the order RD, RS1, RS2, RS3 of 30_encoding.md R64. -/

namespace Sys2Proof

/-- A command of the block (30_encoding.md R59). An index names BRk directly (R58); `WellFormed` says it is below 16. -/
inductive Instr where
  /-- `MODEXP rd, base, exponent, modulus` (40_modexp_engine.md R69). -/
  | modexp (rd rs1 rs2 rs3 : Nat)
  /-- `GCD rd, a, b` (41_number_theory.md R73). -/
  | gcd (rd rs1 rs2 : Nat)
  /-- `LCM rd, a, b` (41_number_theory.md R74). -/
  | lcm (rd rs1 rs2 : Nat)
  /-- `MODINV rd, a, m` (41_number_theory.md R75). -/
  | modinv (rd rs1 rs2 : Nat)
  /-- `MR_ROUND rd, d, n` (42_primality.md R81). -/
  | mrRound (rd rs1 rs2 : Nat)
  /-- `MR_ROUND_W rd, d, n, a` (42_primality.md R82). -/
  | mrRoundW (rd rs1 rs2 rs3 : Nat)
  /-- `IS_PRIME rd, n` (42_primality.md R85). -/
  | isPrime (rd rs1 : Nat)
  /-- `GEN_PRIME rd` (43_prime_generator.md R92). -/
  | genPrime (rd : Nat)
  /-- `KEYGEN` (44_keypair_fsm.md R103). -/
  | keygen
  /-- `RSAEP rd, m, e, n` (45_rsa_primitive.md R104). -/
  | rsaep (rd rs1 rs2 rs3 : Nat)
  deriving DecidableEq, Repr

end Sys2Proof
end

