-- ==== Sys2Proof/WellFormed.lean ====
section
/-! DEFINITION. When a command is one that some word encodes: every register index names one of the 16 big
registers (10_state.md R17, 30_encoding.md R58). -/

namespace Sys2Proof

/-- The big-register indexes a command names: those of the fields its format uses (30_encoding.md R57), destination first. -/
def Instr.indexes : Instr → List Nat
  | .modexp rd rs1 rs2 rs3 => [rd, rs1, rs2, rs3]
  | .gcd rd rs1 rs2 => [rd, rs1, rs2]
  | .lcm rd rs1 rs2 => [rd, rs1, rs2]
  | .modinv rd rs1 rs2 => [rd, rs1, rs2]
  | .mrRound rd rs1 rs2 => [rd, rs1, rs2]
  | .mrRoundW rd rs1 rs2 rs3 => [rd, rs1, rs2, rs3]
  | .isPrime rd rs1 => [rd, rs1]
  | .genPrime rd => [rd]
  | .keygen => []
  | .rsaep rd rs1 rs2 rs3 => [rd, rs1, rs2, rs3]

/-- Every index fits the 4-bit field that holds it (30_encoding.md R58). -/
abbrev Instr.WellFormed (i : Instr) : Prop := ∀ k ∈ i.indexes, k < 16

end Sys2Proof
end

