-- ==== Sys2Proof/Decode.lean ====
section
/-! DEFINITION. Command words: the decoder of 30_encoding.md R62, total on every 32-bit word and rejecting by name, the
bytes of a word in lane order (20_memory.md R45), and after them the encoder of R64. -/

namespace Sys2Proof

/-! ### Fields and byte lanes -/

/-- `w[lo+len-1 : lo]` as an unsigned number (00_scope.md R11). -/
def field (w : Word) (lo len : Nat) : Nat := w.toNat / 2 ^ lo % 2 ^ len

/-- The low `n` bytes of a number, least significant first (20_memory.md R44, R45). -/
def leBytes : Nat → Nat → List Byte
  | 0, _ => []
  | n + 1, v => BitVec.ofNat 8 v :: leBytes n (v / 256)

/-- The number whose bytes, least significant first, are given (20_memory.md R44, R45). -/
def leNat : List Byte → Nat
  | [] => 0
  | b :: bs => b.toNat + 256 * leNat bs

/-! ### The opcode map -/

/-- The five formats of 30_encoding.md R57: which register fields a command uses. -/
inductive Format where
  | f4
  | f3
  | f2
  | f1
  | f0
  deriving DecidableEq, Repr

/-- The formats that use RS3. -/
def Format.usesRs3 : Format → Bool
  | .f4 => true
  | .f3 | .f2 | .f1 | .f0 => false

/-- The formats that use RS2. -/
def Format.usesRs2 : Format → Bool
  | .f4 | .f3 => true
  | .f2 | .f1 | .f0 => false

/-- The formats that use RS1. -/
def Format.usesRs1 : Format → Bool
  | .f4 | .f3 | .f2 => true
  | .f1 | .f0 => false

/-- The formats that use RD. -/
def Format.usesRd : Format → Bool
  | .f4 | .f3 | .f2 | .f1 => true
  | .f0 => false

/-- The ten assigned opcodes (30_encoding.md R59). -/
inductive Opcode where
  | modexp
  | gcd
  | lcm
  | modinv
  | mrRound
  | mrRoundW
  | isPrime
  | genPrime
  | keygen
  | rsaep
  deriving DecidableEq, Repr

/-- The OPC value of each command (30_encoding.md R59). -/
def Opcode.code : Opcode → Nat
  | .modexp => 0x01
  | .gcd => 0x10
  | .lcm => 0x11
  | .modinv => 0x12
  | .mrRound => 0x20
  | .mrRoundW => 0x21
  | .isPrime => 0x22
  | .genPrime => 0x30
  | .keygen => 0x40
  | .rsaep => 0x50

/-- The format of each command (30_encoding.md R57, R59). -/
def Opcode.format : Opcode → Format
  | .modexp => .f4
  | .gcd => .f3
  | .lcm => .f3
  | .modinv => .f3
  | .mrRound => .f3
  | .mrRoundW => .f4
  | .isPrime => .f2
  | .genPrime => .f1
  | .keygen => .f0
  | .rsaep => .f4

/-- The command an opcode and the four register fields make; fields its format does not use are not in it. -/
def Opcode.instr (rd rs1 rs2 rs3 : Nat) : Opcode → Instr
  | .modexp => .modexp rd rs1 rs2 rs3
  | .gcd => .gcd rd rs1 rs2
  | .lcm => .lcm rd rs1 rs2
  | .modinv => .modinv rd rs1 rs2
  | .mrRound => .mrRound rd rs1 rs2
  | .mrRoundW => .mrRoundW rd rs1 rs2 rs3
  | .isPrime => .isPrime rd rs1
  | .genPrime => .genPrime rd
  | .keygen => .keygen
  | .rsaep => .rsaep rd rs1 rs2 rs3

/-- All assigned opcodes, in the table's order. -/
def Opcode.all : List Opcode :=
  [.modexp, .gcd, .lcm, .modinv, .mrRound, .mrRoundW, .isPrime, .genPrime, .keygen, .rsaep]

/-- The opcode with a given OPC value; none for the 246 unassigned values (30_encoding.md R61). -/
def opcodeOf (opc : Nat) : Option Opcode := Opcode.all.find? (fun o => o.code == opc)

/-! ### The decoder -/

/-- Why a word is no legal command (30_encoding.md R60, R61); `shortWord` is for a byte string of fewer than four
bytes, which no bus access delivers (20_memory.md R46). -/
inductive Reject where
  | unassignedOpcode
  | rsvNonzero
  | rs3Nonzero
  | rs2Nonzero
  | rs1Nonzero
  | rdNonzero
  | shortWord
  deriving DecidableEq, Repr

/-- 30_encoding.md R62: total on every 32-bit word, the tests in the rule's order. -/
def decode (w : Word) : Except Reject Instr :=
  match opcodeOf (field w 0 8) with
  | none => .error .unassignedOpcode
  | some o =>
    if field w 24 8 ≠ 0 then .error .rsvNonzero
    else if o.format.usesRs3 = false ∧ field w 20 4 ≠ 0 then .error .rs3Nonzero
    else if o.format.usesRs2 = false ∧ field w 16 4 ≠ 0 then .error .rs2Nonzero
    else if o.format.usesRs1 = false ∧ field w 12 4 ≠ 0 then .error .rs1Nonzero
    else if o.format.usesRd = false ∧ field w 8 4 ≠ 0 then .error .rdNonzero
    else .ok (o.instr (field w 8 4) (field w 12 4) (field w 16 4) (field w 20 4))

/-- The decoder on bytes as the window lays them out: byte lane L holds bits [8L+7:8L] (20_memory.md R45). One command
is four bytes (30_encoding.md R63); the rest of the bytes is returned. -/
def decodeBytes : List Byte → Except Reject (Instr × List Byte)
  | b0 :: b1 :: b2 :: b3 :: rest =>
    match decode (BitVec.ofNat 32 (leNat [b0, b1, b2, b3])) with
    | .ok i => .ok (i, rest)
    | .error e => .error e
  | _ => .error .shortWord

/-- The instruction the decoder reads from a word whose bits are numbered as spec/opcode_table.json numbers them; every
bit at or above `nbits` is 0. -/
def decodeTableWord (nbits w : Nat) : Option Instr :=
  match decodeBytes (leBytes 4 (w % 2 ^ nbits)) with
  | .ok (i, _) => some i
  | .error _ => none

/-! ### The encoder -/

/-- The opcode of a command. -/
def Instr.opcode : Instr → Opcode
  | .modexp _ _ _ _ => .modexp
  | .gcd _ _ _ => .gcd
  | .lcm _ _ _ => .lcm
  | .modinv _ _ _ => .modinv
  | .mrRound _ _ _ => .mrRound
  | .mrRoundW _ _ _ _ => .mrRoundW
  | .isPrime _ _ => .isPrime
  | .genPrime _ => .genPrime
  | .keygen => .keygen
  | .rsaep _ _ _ _ => .rsaep

/-- `w = OPC | RD<<8 | RS1<<12 | RS2<<16 | RS3<<20` (30_encoding.md R64), fields a format does not use being 0 (R57). -/
def encode (i : Instr) : Word :=
  let k : Nat → Nat := fun n => i.indexes.getD n 0
  BitVec.ofNat 32 (i.opcode.code + k 0 * 2 ^ 8 + k 1 * 2 ^ 12 + k 2 * 2 ^ 16 + k 3 * 2 ^ 20)

end Sys2Proof
end

