-- ==== Sys2Proof/Config.lean ====
section
/-! DEFINITION. What an implementation fixes: the constants and open parameters of 00_scope.md R7, and the free values
(the answers of the random sources, R13; the choice among enabled agents, R9). -/

namespace Sys2Proof

/-- The two prime-search units, each with a random source of its own (00_scope.md R7, R9). -/
inductive UnitId where
  | u0
  | u1
  deriving DecidableEq, Repr

/-- The OPEN parameters of 00_scope.md R7. `lastWord` is MAX_WORDS - 1, so every value of this type is a legal
width: MAX_WORDS is 1 to 128 and W a multiple of 32 from 32 to 4096. -/
structure Params where
  lastWord : Fin 128
  base : Nat
  deriving DecidableEq, Repr

namespace Params

/-- MAX_WORDS = W / 32 (00_scope.md R7). -/
def maxWords (p : Params) : Nat := p.lastWord.val + 1

/-- W, written MAX_BITS (00_scope.md R7). -/
def maxBits (p : Params) : Nat := 32 * p.maxWords

/-- The reference instance: W = 4096 (00_scope.md R7). The spec gives no reference BASE; 0 is a
DESIGN CHOICE (log entry 1). -/
def reference : Params := { lastWord := 127, base := 0 }

end Params

namespace Config

/-- K_ROUNDS, the rounds of one primality test (00_scope.md R7). -/
def kRounds : Nat := 5

/-- E_PUB, the fixed public exponent (00_scope.md R7). -/
def ePub : Nat := 65537

/-- MIN_KEY_BITS (00_scope.md R7). -/
def minKeyBits : Nat := 16

/-- FREE VALUE: the k-th unqueued answer of random source RNGu, before it is brought into the range a draw asks for.
Nothing is known of it (00_scope.md R13; log entry 4). -/
opaque rng : UnitId → Nat → Nat

/-- FREE VALUE: the k-th unqueued choice among agents that are enabled together (00_scope.md R9; log entry 6). -/
opaque schedule : Nat → Nat

end Config

end Sys2Proof
end

