-- ==== Sys2Proof/Machine/State.lean ====
section
/-! DEFINITION. The machine's state as plain data: the big-register bytes of the window, every CSR, the hidden state of
the sequencer and of the two units (10_state.md), and the queues that stand for the world outside the block. -/

namespace Sys2Proof.Machine

/-! ### The window's big-register bytes -/

/-- The bytes of the big registers, keyed by window offset (20_memory.md R43), in the canonical form Memory.wf; what an
unlisted byte reads as is Memory.unlisted. -/
abbrev Memory := List Host.Cell

/-- One written bit per word of every BR (10_state.md R19): bit 128 * i + j is word j's of BRi. -/
abbrev WrittenBits := BitVec 2048

/-! ### Agents -/

/-- Who can take a step (00_scope.md R9). The random sources answer inside a unit's step. -/
inductive Agent where
  /-- The bus master and the platform's reset input. -/
  | host
  /-- The command sequencer with the keypair FSM and the number-theory unit. -/
  | seq
  /-- A prime-search unit. -/
  | unit (u : UnitId)
  deriving DecidableEq, Repr

/-! ### Status -/

/-- STATUS.STATE (10_state.md R21). Value 7 is never read, and no value of this type is it. -/
inductive SeqState where
  | idle
  | exec
  | searchingPrimes
  | computingModulus
  | validatingExponent
  | computingPrivateExponent
  | done
  deriving DecidableEq, Repr

/-- STATUS.ERRCODE (60_exceptions.md R115). Values 6 to 15 are never raised. -/
inductive ErrCode where
  | noError
  | illegalCmd
  | domain
  | notCoprime
  | overflow
  | attemptCap
  deriving DecidableEq, Repr

/-- The fields of STATUS (10_state.md R28). -/
structure Status where
  busy : Bool
  done : Bool
  err : Bool
  result : Bool
  errCode : ErrCode
  state : SeqState
  deriving DecidableEq, Repr

/-- The pending bits of IRQ (10_state.md R31). -/
structure IrqPending where
  doneP : Bool
  wbusyP : Bool
  deriving DecidableEq, Repr

/-! ### Hidden state -/

/-- The issue latch (10_state.md R36). An operand the command's format does not use is 0. -/
structure Latch where
  op1 : Nat
  op2 : Nat
  op3 : Nat
  /-- B_LAT. -/
  bits : Nat
  /-- CAND_LAT. -/
  candCap : Nat
  /-- RESTART_LAT. -/
  restartCap : Nat
  deriving DecidableEq, Repr

/-- The rejection_sample_prime_generator of a unit (10_state.md R37). `fail` is the ATTEMPT_CAP failure. -/
structure Generator where
  active : Bool
  b : Nat
  c : Nat
  found : Bool
  res : Nat
  fail : Bool
  deriving DecidableEq, Repr

/-- The miller_rabin_test_controller of a unit (10_state.md R37). -/
structure Tester where
  n : Nat
  d : Nat
  x : Nat
  a : Nat
  round : Nat
  s : Nat
  deriving DecidableEq, Repr

/-- The modular_exponentiation_engine of a unit (10_state.md R37). -/
structure Engine where
  base : Nat
  exponent : Nat
  modulus : Nat
  r : Nat
  bit : Nat
  deriving DecidableEq, Repr

/-- The private state of one unit (10_state.md R37). -/
structure UnitState where
  gen : Generator
  tester : Tester
  engine : Engine
  deriving DecidableEq, Repr

/-- The keypair values (10_state.md R38). -/
structure KeyRegs where
  p : Nat
  q : Nat
  n : Nat
  lam : Nat
  e : Nat
  d : Nat
  dP : Nat
  dQ : Nat
  qInv : Nat
  deriving DecidableEq, Repr

/-- The number-theory unit's scratch values (10_state.md R38), named as in 41_number_theory.md R70 and R72. -/
structure NtScratch where
  a : Nat
  b : Nat
  k : Nat
  r0 : Nat
  r1 : Nat
  s0 : Int
  s1 : Int
  deriving DecidableEq, Repr

/-- The sequencer's hidden registers (10_state.md R38). `pending` is the value to commit to rd and its RESULT bit. -/
structure Sequencer where
  key : KeyRegs
  pending : Option (Nat × Bool)
  nt : NtScratch
  deriving DecidableEq, Repr

/-- A discarded latch (10_state.md R40). DESIGN CHOICE, safe: the zeros cannot be observed (log entry 3). -/
def Latch.empty : Latch := { op1 := 0, op2 := 0, op3 := 0, bits := 0, candCap := 0, restartCap := 0 }

/-- The generator of an inactive unit (10_state.md R40; log entry 3). -/
def Generator.empty : Generator := { active := false, b := 0, c := 0, found := false, res := 0, fail := false }

/-- The tester of an inactive unit (10_state.md R40; log entry 3). -/
def Tester.empty : Tester := { n := 0, d := 0, x := 0, a := 0, round := 0, s := 0 }

/-- The engine of an inactive unit (10_state.md R40; log entry 3). -/
def Engine.empty : Engine := { base := 0, exponent := 0, modulus := 0, r := 0, bit := 0 }

/-- An inactive unit, its hidden state discarded (10_state.md R40; log entry 3). -/
def UnitState.empty : UnitState := { gen := .empty, tester := .empty, engine := .empty }

/-- Discarded keypair values (10_state.md R40; log entry 3). -/
def KeyRegs.empty : KeyRegs :=
  { p := 0, q := 0, n := 0, lam := 0, e := 0, d := 0, dP := 0, dQ := 0, qInv := 0 }

/-- Discarded number-theory scratch (10_state.md R40; log entry 3). -/
def NtScratch.empty : NtScratch := { a := 0, b := 0, k := 0, r0 := 0, r1 := 0, s0 := 0, s1 := 0 }

/-- The sequencer with its hidden registers discarded (10_state.md R40; log entry 3). -/
def Sequencer.empty : Sequencer := { key := .empty, pending := none, nt := .empty }

/-! ### The world outside the block -/

/-- What the outside does to the block: one host access (50_host_interface.md R110) at an absolute address and of a width
in bytes, or the platform's reset input (70_reset_and_hazards.md R129). The data of a write of another width than 4 is
never looked at (20_memory.md R46). -/
inductive BusOp where
  | read (addr width : Nat)
  | write (addr width : Nat) (v : Word)
  | hardReset
  deriving DecidableEq, Repr

/-- What came back from the last host access. -/
inductive BusResp where
  /-- No access since reset. -/
  | quiet
  /-- A read's 32 bits. -/
  | data (v : Word)
  /-- A write taken from the bus; a write dropped while busy also ends so (10_state.md R34). -/
  | written
  /-- The bus error of 20_memory.md R46; `v` is what a read returns beside it. -/
  | busError (v : Word)
  /-- The address is outside the window: not part of the block (20_memory.md R42). -/
  | notSelected
  deriving DecidableEq, Repr

/-- One random source as the model sees it: answers already queued, and how many free answers were taken after those
(00_scope.md R13; log entry 4). -/
structure Source where
  answers : List Nat
  taken : Nat
  deriving DecidableEq, Repr

/-! ### The state -/

/-- The whole state of one instance. -/
structure State where
  /-- The open parameters; no step changes them (00_scope.md R7, R10; log entry 1). -/
  params : Params
  /-- BR0 to BR15 (10_state.md R17). -/
  mem : Memory
  /-- The written bits of BR0 to BR15 (10_state.md R19). -/
  writtenBits : WrittenBits
  /-- CMD (10_state.md R27). -/
  cmd : Word
  /-- STATUS (10_state.md R28). -/
  status : Status
  /-- CTRL.IRQ_EN (10_state.md R29). -/
  irqEn : Bool
  /-- BITSIZE.BITS (10_state.md R30). -/
  bitsize : BitVec 16
  /-- IRQ (10_state.md R31). -/
  irq : IrqPending
  /-- ATTEMPT_CAP.CAND_CAP (10_state.md R32). -/
  candCap : BitVec 16
  /-- ATTEMPT_CAP.RESTART_CAP (10_state.md R32). -/
  restartCap : BitVec 16
  /-- CNT_PG0 (10_state.md R33). -/
  cntPg0 : Word
  /-- CNT_PG1 (10_state.md R33). -/
  cntPg1 : Word
  /-- CNT_RESTART (10_state.md R33). -/
  cntRestart : Word
  /-- The issue latch (10_state.md R36). -/
  latch : Latch
  /-- UNIT0 (10_state.md R37). -/
  unit0 : UnitState
  /-- UNIT1 (10_state.md R37). -/
  unit1 : UnitState
  /-- The sequencer's hidden registers (10_state.md R38). -/
  seq : Sequencer
  /-- MODEL: the fault UnwrittenRead has been recorded (10_state.md R19, 60_exceptions.md R116); nothing clears it
  (log entry 2). -/
  unwrittenRead : Bool
  /-- MODEL: host accesses and resets not yet performed, oldest first (log entry 5). -/
  bus : List BusOp
  /-- MODEL: the block's answer to the last host access (log entry 5). -/
  resp : BusResp
  /-- MODEL: who moves at the coming steps, where that is already settled (log entry 6). -/
  turns : List Agent
  /-- MODEL: how many free scheduling choices were taken (log entry 6). -/
  schedTaken : Nat
  /-- MODEL: the answers of RNG0 (log entry 4). -/
  rng0 : Source
  /-- MODEL: the answers of RNG1 (log entry 4). -/
  rng1 : Source
  deriving DecidableEq, Repr

/-- STATUS right after either reset: IDLE, flags 0, ERRCODE 0 (10_state.md R40). -/
def Status.reset : Status :=
  { busy := false, done := false, err := false, result := false, errCode := .noError, state := .idle }

/-- A random source none of whose answers is settled. -/
def Source.fresh : Source := { answers := [], taken := 0 }

/-- The machine right after a hardware reset (10_state.md R40, 70_reset_and_hazards.md R129), at the reference width, with
nothing queued from outside. Every written bit is 0; that BR0 to BR15 then hold 0 is a DESIGN CHOICE, unsafe: the spec
gives their contents no value (log entry 2). -/
def State.reset : State where
  params := .reference
  mem := []
  writtenBits := 0
  cmd := 0
  status := .reset
  irqEn := false
  bitsize := 0
  irq := { doneP := false, wbusyP := false }
  candCap := 0
  restartCap := 0
  cntPg0 := 0
  cntPg1 := 0
  cntRestart := 0
  latch := .empty
  unit0 := .empty
  unit1 := .empty
  seq := .empty
  unwrittenRead := false
  bus := []
  resp := .quiet
  turns := []
  schedTaken := 0
  rng0 := .fresh
  rng1 := .fresh

/-- Why a run stops with no successor state: for no reason at all, so there is no constructor. The errors of
60_exceptions.md R115 and the bus error of R116 are next states, and the model fault UnwrittenRead is recorded in
State.unwrittenRead (log entry 2). -/
inductive Fault where
  deriving DecidableEq, Repr

/-- Why a step has no meaning. -/
inductive Refusal where
  /-- Raised only by an arm of exec whose instruction has no meaning yet; no arm of this model does. SAFE. -/
  | notModelled (mnemonic : String)
  deriving DecidableEq, Repr

/-- What a step answers. -/
abbrev Outcome := Host.Outcome State Fault Refusal

end Sys2Proof.Machine
end

