-- ==== Sys2Proof/Machine/Flags.lean ====
section
/-! DEFINITION. Every status flag's rule (10_state.md R22, R28): what each event leaves in STATUS, the whole STATUS and IRQ
words, and the interrupt line. -/

namespace Sys2Proof.Machine

/-! ### Encodings -/

/-- STATUS.STATE's value (10_state.md R21). -/
def SeqState.code : SeqState → Nat
  | .idle => 0
  | .exec => 1
  | .searchingPrimes => 2
  | .computingModulus => 3
  | .validatingExponent => 4
  | .computingPrivateExponent => 5
  | .done => 6

/-- STATUS.ERRCODE's value (60_exceptions.md R115). -/
def ErrCode.code : ErrCode → Nat
  | .noError => 0
  | .illegalCmd => 1
  | .domain => 2
  | .notCoprime => 3
  | .overflow => 4
  | .attemptCap => 5

/-- The 32-bit STATUS word: BUSY [0], DONE [1], ERR [2], RESULT [3], ERRCODE [11:8], STATE [18:16], the rest 0
(10_state.md R28). -/
def Status.toWord (t : Status) : Word :=
  BitVec.ofNat 32 (t.busy.toNat + 2 * t.done.toNat + 4 * t.err.toNat + 8 * t.result.toNat + 2 ^ 8 * t.errCode.code +
    2 ^ 16 * t.state.code)

/-- The 32-bit IRQ word: DONE_P [0], WBUSY_P [1] (10_state.md R31). -/
def IrqPending.toWord (p : IrqPending) : Word := BitVec.ofNat 32 (p.doneP.toNat + 2 * p.wbusyP.toNat)

/-! ### What each event leaves in STATUS -/

/-- An accepted CMD word clears DONE, ERR, RESULT and ERRCODE (50_host_interface.md R106). -/
def Status.accepted (t : Status) : Status := { t with done := false, err := false, result := false, errCode := .noError }

/-- A command that issued: BUSY set, STATE as given (50_host_interface.md R106). -/
def Status.started (st : SeqState) (t : Status) : Status := { t with busy := true, state := st }

/-- A commit with primality bit `r` (50_host_interface.md R109). -/
def Status.committed (r : Bool) : Status :=
  { busy := false, done := true, err := false, result := r, errCode := .noError, state := .idle }

/-- An error completion (60_exceptions.md R117). -/
def Status.failed (e : ErrCode) : Status :=
  { busy := false, done := true, err := true, result := false, errCode := e, state := .idle }

/-! ### The interrupt -/

/-- Writing 1 to a bit of IRQ clears it, writing 0 leaves it (10_state.md R31). -/
def IrqPending.clear (w : Word) (p : IrqPending) : IrqPending :=
  { doneP := p.doneP && !w.getLsbD 0, wbusyP := p.wbusyP && !w.getLsbD 1 }

/-- The interrupt output (60_exceptions.md R122). -/
def State.irqLine (s : State) : Bool := s.irqEn && (s.irq.doneP || s.irq.wbusyP)

end Sys2Proof.Machine
end

