-- ==== Sys2Proof/Machine/Ops.lean ====
section
/-! DEFINITION. The named operations over the window's bytes, the big registers, the counters, the random sources and the
hidden state; the commit, the error completion (the block's only exception entry) and the two resets. The block has no
return from an exception (60_exceptions.md R119), so none stands beside it. -/

namespace Sys2Proof.Machine

/-! ### Bytes of the big-register window -/

/-- What an unlisted byte reads as. DESIGN CHOICE, unsafe: the spec gives a big register's contents after a hardware reset
no value (10_state.md R40), and every register holds one here (log entry 2). -/
def Memory.unlisted : Byte := 0

/-- The canonical form: offsets strictly rising, and no listed byte is what an unlisted one reads as. -/
abbrev Memory.wf (m : Memory) : Prop := m.Pairwise (fun c d => c.1 < d.1) ∧ ∀ c ∈ m, c.2 ≠ Memory.unlisted

/-- The listed byte at an offset. -/
def Memory.find : Memory → Nat → Option Byte
  | [], _ => none
  | c :: m, a => if c.1 = a then some c.2 else Memory.find m a

/-- One byte of the window. -/
def Memory.read (m : Memory) (a : Nat) : Byte := (m.find a).getD Memory.unlisted

/-- The cells that hold the given bytes from offset `lo` up. -/
def Memory.cellsAt : Nat → List Byte → Memory
  | _, [] => []
  | lo, b :: bs =>
    if b = Memory.unlisted then Memory.cellsAt (lo + 1) bs else (lo, b) :: Memory.cellsAt (lo + 1) bs

/-- The window after the given bytes are written from offset `lo` up: the one write of the model. -/
def Memory.splice (lo : Nat) (bs : List Byte) (m : Memory) : Memory :=
  m.filter (fun c => decide (c.1 < lo)) ++ Memory.cellsAt lo bs ++ m.filter (fun c => decide (lo + bs.length ≤ c.1))

/-- `n` bytes from offset `lo` up. -/
def Memory.readBytes (m : Memory) : Nat → Nat → List Byte
  | 0, _ => []
  | n + 1, lo => m.read lo :: Memory.readBytes m n (lo + 1)

/-! ### Big registers -/

/-- The offset of BRi's word 0 (20_memory.md R43). -/
def brOffset (i : Nat) : Nat := 0x1000 + 0x200 * i

/-- The bytes of one big register that hold bits: 4 * MAX_WORDS (20_memory.md R43). -/
def State.brBytes (s : State) : Nat := 4 * s.params.maxWords

/-- x[i] (00_scope.md R12, 20_memory.md R44). -/
def State.readBr (s : State) (i : Nat) : Nat := leNat (s.mem.readBytes s.brBytes (brOffset i))

/-- The window with x[i] replaced by zext_W(v) (10_state.md R18). -/
def Memory.writeBr (p : Params) (m : Memory) (i v : Nat) : Memory :=
  m.splice (brOffset i) (leBytes (4 * p.maxWords) v)

/-- The window with each listed register written, in order. -/
def Memory.writeBrs (p : Params) : Memory → List (Nat × Nat) → Memory
  | m, [] => m
  | m, (i, v) :: ws => Memory.writeBrs p (m.writeBr p i v) ws

/-- One 32-bit word of the window (20_memory.md R43, R45). -/
def Memory.readWord (m : Memory) (off : Nat) : Word := BitVec.ofNat 32 (leNat (m.readBytes 4 off))

/-- The window with one 32-bit word written (20_memory.md R43, R45). -/
def Memory.writeWord (m : Memory) (off : Nat) (w : Word) : Memory := m.splice off (leBytes 4 w.toNat)

/-! ### Written bits -/

/-- The place of word j of BRi among the written bits, j < 128. -/
def writtenBit (i j : Nat) : Nat := 128 * i + j

/-- The written bit of word j of BRi (10_state.md R19). -/
def State.written (s : State) (i j : Nat) : Bool := s.writtenBits.getLsbD (writtenBit i j)

/-- Every word of BRi that holds bits is written (10_state.md R19). -/
def State.fullyWritten (s : State) (i : Nat) : Bool := (List.range s.params.maxWords).all fun j => s.written i j

/-- A host write sets the bit of the word it writes (10_state.md R19). -/
def WrittenBits.markWord (b : WrittenBits) (i j : Nat) : WrittenBits := b ||| BitVec.twoPow 2048 (writtenBit i j)

/-- A commit sets every bit of a register it writes (10_state.md R18, R19). -/
def WrittenBits.markBr (p : Params) (b : WrittenBits) (i : Nat) : WrittenBits :=
  b ||| (BitVec.allOnes p.maxWords).setWidth 2048 <<< writtenBit i 0

/-- The written bits with those of each listed register set. -/
def WrittenBits.markBrs (p : Params) : WrittenBits → List (Nat × Nat) → WrittenBits
  | b, [] => b
  | b, (i, _) :: ws => WrittenBits.markBrs p (b.markBr p i) ws

/-- The fault UnwrittenRead recorded where `met` (50_host_interface.md R107: "the model records the fault UnwrittenRead"); what
was recorded stays. The read goes on with the value the register holds: DESIGN CHOICE, unsafe (log entry 2). -/
def State.noteUnwritten (met : Bool) (s : State) : State := { s with unwrittenRead := s.unwrittenRead || met }

/-! ### Numbers -/

/-- `bitlen(v)` (00_scope.md R11). -/
def bitLen (v : Nat) : Nat := if v = 0 then 0 else Nat.log2 v + 1

/-- `min(c + 1, 0xFFFFFFFF)` on a 32-bit counter (10_state.md R33). -/
def satInc (c : Word) : Word := BitVec.ofNat 32 (min (c.toNat + 1) 0xFFFFFFFF)

/-! ### Random sources -/

/-- An answer brought into [lo, hi]; every value of the interval is the image of itself (00_scope.md R13; log entry 4). -/
def drawIn (lo hi raw : Nat) : Nat := if lo ≤ raw ∧ raw ≤ hi then raw else lo + raw % (hi - lo + 1)

/-- The next answer of RNGu: a queued one if there is one, else a free value. -/
def Source.next (u : UnitId) (src : Source) : Nat × Source :=
  match src.answers with
  | a :: rest => (a, { src with answers := rest })
  | [] => (Config.rng u src.taken, { src with taken := src.taken + 1 })

/-- `draw_u(lo, hi)` (00_scope.md R13). -/
def Source.draw (u : UnitId) (lo hi : Nat) (src : Source) : Nat × Source :=
  (drawIn lo hi (src.next u).1, (src.next u).2)

/-- The source that serves a unit: RNGu serves UNITu only (00_scope.md R9). -/
def State.rng (s : State) : UnitId → Source
  | .u0 => s.rng0
  | .u1 => s.rng1

/-- The state with one source moved on. -/
def State.setRng (s : State) (u : UnitId) (src : Source) : State :=
  match u with
  | .u0 => { s with rng0 := src }
  | .u1 => { s with rng1 := src }

/-! ### Units and counters -/

/-- The private state of a unit. -/
def State.unit (s : State) : UnitId → UnitState
  | .u0 => s.unit0
  | .u1 => s.unit1

/-- The state with one unit's private state replaced. -/
def State.setUnit (s : State) (u : UnitId) (x : UnitState) : State :=
  match u with
  | .u0 => { s with unit0 := x }
  | .u1 => { s with unit1 := x }

/-- CNT_PGu (10_state.md R33). -/
def State.cntPg (s : State) : UnitId → Word
  | .u0 => s.cntPg0
  | .u1 => s.cntPg1

/-- The state with CNT_PGu one higher, saturating (43_prime_generator.md R87). -/
def State.countCandidate (s : State) (u : UnitId) : State :=
  match u with
  | .u0 => { s with cntPg0 := satInc s.cntPg0 }
  | .u1 => { s with cntPg1 := satInc s.cntPg1 }

/-- All three counters set to 0 at a legal issue (10_state.md R33, 50_host_interface.md R106). -/
def State.zeroCounters (s : State) : State := { s with cntPg0 := 0, cntPg1 := 0, cntRestart := 0 }

/-- A unit whose search for a prime of `b` bits has started (43_prime_generator.md R87, 44_keypair_fsm.md R94). -/
def UnitState.searching (b : Nat) : UnitState :=
  { UnitState.empty with gen := { Generator.empty with active := true, b := b } }

/-- Both units stopped, their hidden state discarded (44_keypair_fsm.md R94, 60_exceptions.md R117). -/
def State.stopUnits (s : State) : State := { s with unit0 := .empty, unit1 := .empty }

/-- The issue latch and all hidden command state discarded, both units stopped (50_host_interface.md R109). -/
def State.discardHidden (s : State) : State := { s.stopUnits with latch := .empty, seq := .empty }

/-! ### Starting a command -/

/-- BUSY ← 1 and STATE ← EXEC, for every command but KEYGEN (50_host_interface.md R106). -/
def State.startExec (s : State) : State := { s with status := s.status.started .exec }

/-- GEN_PRIME starts UNIT0's search as well (60_exceptions.md R126). -/
def State.startGenPrime (s : State) : State := { s.startExec with unit0 := .searching s.latch.bits }

/-- Entry to SEARCHING_PRIMES: both units start a search for h = b / 2 bits (44_keypair_fsm.md R94). -/
def State.enterSearching (s : State) : State :=
  { s with
    status := s.status.started .searchingPrimes
    unit0 := .searching (s.latch.bits / 2)
    unit1 := .searching (s.latch.bits / 2) }

/-! ### Ending a command -/

/-- The commit: the listed registers and their written bits, STATUS, IRQ.DONE_P, and everything hidden discarded, in one step
(50_host_interface.md R109). -/
def State.commit (ws : List (Nat × Nat)) (r : Bool) (s : State) : State :=
  { s.discardHidden with
    mem := s.mem.writeBrs s.params ws
    writtenBits := s.writtenBits.markBrs s.params ws
    status := .committed r
    irq := { s.irq with doneP := true } }

/-- The pending result of a command with one destination (10_state.md R38). -/
def State.setPending (v : Nat) (r : Bool) (s : State) : State := { s with seq := { s.seq with pending := some (v, r) } }

/-- Commit the pending result to rd; with none pending there is nothing to commit. -/
def State.commitPending (rd : Nat) (s : State) : State :=
  match s.seq.pending with
  | some (v, r) => s.commit [(rd, v)] r
  | none => s

/-- A command's `commit(rd, v) ; RESULT <- r` (00_scope.md R12, 50_host_interface.md R109). -/
def State.finish (rd v : Nat) (r : Bool) (s : State) : State := (s.setPending v r).commitPending rd

/-- EXCEPTION ENTRY. The error completion, the only way an error ends a command (60_exceptions.md R117): no big register
is written; BITSIZE, ATTEMPT_CAP, CTRL and the counters are kept. -/
def State.completeError (e : ErrCode) (s : State) : State :=
  { s.discardHidden with
    status := .failed e
    irq := { s.irq with doneP := true } }

/-! ### Resets -/

/-- The soft reset of 70_reset_and_hazards.md R130: as a hardware reset, but the big registers and their written bits are
unchanged. What is queued outside the block, and the record of an unwritten read, are not the block's. -/
def State.softReset (s : State) : State :=
  { s.discardHidden with
    cmd := 0
    status := .reset
    irqEn := false
    bitsize := 0
    irq := { doneP := false, wbusyP := false }
    candCap := 0
    restartCap := 0
    cntPg0 := 0
    cntPg1 := 0
    cntRestart := 0 }

/-- The hardware reset of 70_reset_and_hazards.md R129: every written bit cleared as well. That the big registers then hold 0
is a DESIGN CHOICE (log entry 2). -/
def State.hardReset (s : State) : State := { s.softReset with mem := [], writtenBits := 0, resp := .quiet }

end Sys2Proof.Machine
end

