-- ==== Sys2Proof/Machine/Operands.lean ====
section
/-! DEFINITION. Operand forms: which source registers a command's format uses, the issue latch filled from them
(50_host_interface.md R107), and the issue of a legal command (R106). -/

namespace Sys2Proof.Machine

/-- The source fields of the five formats (30_encoding.md R57); RD is no source. -/
inductive Sources where
  | f4 (rs1 rs2 rs3 : Nat)
  | f3 (rs1 rs2 : Nat)
  | f2 (rs1 : Nat)
  | f1
  | f0
  deriving DecidableEq, Repr

/-- The latch for three operand values, with BITSIZE and ATTEMPT_CAP as they are now (10_state.md R36). -/
def State.latchOf (s : State) (v1 v2 v3 : Nat) : Latch :=
  { op1 := v1
    op2 := v2
    op3 := v3
    bits := s.bitsize.toNat
    candCap := s.candCap.toNat
    restartCap := s.restartCap.toNat }

/-- The registers a source form names. -/
def Sources.regs : Sources → List Nat
  | .f4 rs1 rs2 rs3 => [rs1, rs2, rs3]
  | .f3 rs1 rs2 => [rs1, rs2]
  | .f2 rs1 => [rs1]
  | .f1 => []
  | .f0 => []

/-- 50_host_interface.md R107: the source registers read at issue. -/
def Sources.latch (s : State) : Sources → Latch
  | .f4 rs1 rs2 rs3 => s.latchOf (s.readBr rs1) (s.readBr rs2) (s.readBr rs3)
  | .f3 rs1 rs2 => s.latchOf (s.readBr rs1) (s.readBr rs2) 0
  | .f2 rs1 => s.latchOf (s.readBr rs1) 0 0
  | .f1 => s.latchOf 0 0 0
  | .f0 => s.latchOf 0 0 0

/-- A used source register has an unwritten word (50_host_interface.md R107). -/
def Sources.meetsUnwritten (s : State) (src : Sources) : Bool := src.regs.any fun i => !s.fullyWritten i

/-- Counters to 0 and sources latched (50_host_interface.md R106, R107); a source with an unwritten word is recorded here,
before the domain check (60_exceptions.md R118). -/
def State.latched (src : Sources) (s : State) : State :=
  { s.zeroCounters.noteUnwritten (src.meetsUnwritten s) with latch := src.latch s }

/-- The issue of a legal command (50_host_interface.md R106, from the counters on): the latch, then the command's own
domain check on it, then its start. -/
def State.issue (src : Sources) (outside : Latch → Bool) (start : State → State) (s : State) : Outcome :=
  if outside (src.latch s) then .next ((s.latched src).completeError .domain) else .next (start (s.latched src))

end Sys2Proof.Machine
end

