-- ==== Sys2Proof/Machine/NumberTheory.lean ====
section
/-! DEFINITION. The number-theory unit (41_number_theory.md): STEIN, LCMF and MODINVF, each with the scratch values it
leaves, and the commands GCD, LCM and MODINV. -/

namespace Sys2Proof.Machine

/-! ### STEIN and LCMF -/

/-- One pass of the loop of 41_number_theory.md R70. -/
def NtScratch.steinStep (t : NtScratch) : NtScratch :=
  if t.a % 2 = 0 ∧ t.b % 2 = 0 then { t with a := t.a / 2, b := t.b / 2, k := t.k + 1 }
  else if t.a % 2 = 0 then { t with a := t.a / 2 }
  else if t.b % 2 = 0 then { t with b := t.b / 2 }
  else if t.a > t.b then { t with a := (t.a - t.b) / 2 }
  else { t with b := (t.b - t.a) / 2 }

/-- The loop of 41_number_theory.md R70, at most `fuel` passes. -/
def NtScratch.steinLoop : Nat → NtScratch → NtScratch
  | 0, t => t
  | fuel + 1, t => if t.a = t.b then t else NtScratch.steinLoop fuel t.steinStep

/-- The scratch after the loop on a, b ≥ 1. Each pass shortens an operand by a bit, so the fuel given is enough
(DEDUCED from 41_number_theory.md R70; log entry 7). -/
def steinScratch (a b : Nat) : NtScratch :=
  NtScratch.steinLoop (bitLen a + bitLen b) { NtScratch.empty with a := a, b := b }

/-- `STEIN(a, b)` (41_number_theory.md R70), with its two zero tests. -/
def stein (a b : Nat) : Nat :=
  if a = 0 then b
  else if b = 0 then a
  else (steinScratch a b).a * 2 ^ (steinScratch a b).k

/-- `LCMF(a, b)` (41_number_theory.md R71). -/
def lcmF (a b : Nat) : Nat := a * (b / stein a b)

/-! ### MODINVF -/

/-- What MODINVF returns (41_number_theory.md R72). -/
inductive InvResult where
  | ok (x : Nat)
  | notCoprime (g : Nat)
  deriving DecidableEq, Repr

/-- One pass of the loop of 41_number_theory.md R72. -/
def NtScratch.euclidStep (t : NtScratch) : NtScratch :=
  let q := t.r0 / t.r1
  { t with r0 := t.r1, r1 := t.r0 - q * t.r1, s0 := t.s1, s1 := t.s0 - (q : Int) * t.s1 }

/-- The loop of 41_number_theory.md R72, at most `fuel` passes. -/
def NtScratch.euclidLoop : Nat → NtScratch → NtScratch
  | 0, t => t
  | fuel + 1, t => if t.r1 = 0 then t else NtScratch.euclidLoop fuel t.euclidStep

/-- The scratch after the loop on a and m. Two passes shorten r1 by a bit, so the fuel given is enough (DEDUCED from
41_number_theory.md R72; log entry 7). -/
def euclidScratch (a m : Nat) : NtScratch :=
  NtScratch.euclidLoop (2 * bitLen m + 2) { NtScratch.empty with r0 := a % m, r1 := m, s0 := 1, s1 := 0 }

/-- `MODINVF(a, m)` for m ≥ 1 (41_number_theory.md R72). -/
def modInvF (a m : Nat) : InvResult :=
  if m = 1 then .ok 0
  else if (euclidScratch a m).r0 ≠ 1 then .notCoprime (euclidScratch a m).r0
  else .ok ((euclidScratch a m).s0 % (m : Int)).toNat

/-- The sequencer with the number-theory unit's scratch replaced. -/
def State.setNt (t : NtScratch) (s : State) : State := { s with seq := { s.seq with nt := t } }

/-! ### GCD, LCM, MODINV -/

/-- GCD's and LCM's domain check: a = b = 0 (41_number_theory.md R73, R74). -/
def gcdOutside (l : Latch) : Bool := decide (l.op1 = 0 ∧ l.op2 = 0)

/-- GCD's execute-and-commit step (41_number_theory.md R73). -/
def runGcd (rd : Nat) (s : State) : State :=
  (s.setNt (steinScratch s.latch.op1 s.latch.op2)).finish rd (stein s.latch.op1 s.latch.op2) false

/-- GCD (41_number_theory.md R73): issue where the block is idle, else the execute-and-commit step. -/
def execGcd (rd rs1 rs2 : Nat) (s : State) : Outcome :=
  if s.status.busy then .next (runGcd rd s) else s.issue (.f3 rs1 rs2) gcdOutside State.startExec

/-- LCM's execute step: OVERFLOW where the result does not fit W bits, else the commit (41_number_theory.md R74). -/
def runLcm (rd : Nat) (s : State) : State :=
  if lcmF s.latch.op1 s.latch.op2 ≥ 2 ^ s.params.maxBits then s.completeError .overflow
  else (s.setNt (steinScratch s.latch.op1 s.latch.op2)).finish rd (lcmF s.latch.op1 s.latch.op2) false

/-- LCM (41_number_theory.md R74): issue where the block is idle, else the execute step. -/
def execLcm (rd rs1 rs2 : Nat) (s : State) : Outcome :=
  if s.status.busy then .next (runLcm rd s) else s.issue (.f3 rs1 rs2) gcdOutside State.startExec

/-- MODINV's domain check: m = 0 (41_number_theory.md R75). -/
def modinvOutside (l : Latch) : Bool := decide (l.op2 = 0)

/-- MODINV's execute step: NOT_COPRIME where there is no inverse, else the commit (41_number_theory.md R75). -/
def runModinv (rd : Nat) (s : State) : State :=
  match modInvF s.latch.op1 s.latch.op2 with
  | .ok x => (s.setNt (euclidScratch s.latch.op1 s.latch.op2)).finish rd x false
  | .notCoprime _ => s.completeError .notCoprime

/-- MODINV (41_number_theory.md R75): issue where the block is idle, else the execute step. -/
def execModinv (rd rs1 rs2 : Nat) (s : State) : Outcome :=
  if s.status.busy then .next (runModinv rd s) else s.issue (.f3 rs1 rs2) modinvOutside State.startExec

end Sys2Proof.Machine
end

