-- ==== Sys2Proof/Machine/ModExp.lean ====
section
/-! DEFINITION. The modular_exponentiation_engine (40_modexp_engine.md R66) and the command MODEXP (R69). -/

namespace Sys2Proof.Machine

/-- The engine loaded for `ME(b, e, m)`: `bb`, and `r <- 1 mod m` (40_modexp_engine.md R66). -/
def Engine.start (b e m : Nat) : Engine :=
  { base := b % m, exponent := e, modulus := m, r := 1 % m, bit := bitLen e }

/-- The loop body for bit i: one squaring, and one multiply where e[i] = 1 (40_modexp_engine.md R66). -/
def Engine.tick (g : Engine) (i : Nat) : Engine :=
  let sq := g.r * g.r % g.modulus
  { g with r := if g.exponent.testBit i then sq * g.base % g.modulus else sq, bit := i }

/-- The loop from bit i-1 down to bit 0. -/
def Engine.run (g : Engine) : Nat → Engine
  | 0 => g
  | i + 1 => (g.tick i).run i

/-- The engine after the whole procedure `ME(b, e, m)`. -/
def Engine.after (b e m : Nat) : Engine := (Engine.start b e m).run (bitLen e)

/-- `ME(b, e, m)` (40_modexp_engine.md R66). -/
def modExp (b e m : Nat) : Nat := (Engine.after b e m).r

/-- MODEXP's domain check: m = 0 (40_modexp_engine.md R69). -/
def modexpOutside (l : Latch) : Bool := decide (l.op3 = 0)

/-- MODEXP's execute-and-commit step (40_modexp_engine.md R69, 50_host_interface.md R108). -/
def runModexp (rd : Nat) (s : State) : State := s.finish rd (modExp s.latch.op1 s.latch.op2 s.latch.op3) false

/-- MODEXP (40_modexp_engine.md R69): issue where the block is idle, else the execute-and-commit step. -/
def execModexp (rd rs1 rs2 rs3 : Nat) (s : State) : Outcome :=
  if s.status.busy then .next (runModexp rd s) else s.issue (.f4 rs1 rs2 rs3) modexpOutside State.startExec

end Sys2Proof.Machine
end

