-- ==== Sys2Proof/Machine/Primality.lean ====
section
/-! DEFINITION. The miller_rabin_test_controller (42_primality.md): one round, SPLIT, the five-round driver, and the
commands MR_ROUND, MR_ROUND_W and IS_PRIME. -/

namespace Sys2Proof.Machine

/-! ### One round -/

/-- A round's verdict (true is ProbablyPrime, R76) and what it leaves in the tester and the engine (10_state.md R37). -/
structure Round where
  verdict : Bool
  tester : Tester
  engine : Engine
  deriving DecidableEq, Repr

/-- The squaring loop of 42_primality.md R77, at most `fuel` passes. The pass that would find the fuel used up finds
d ≥ n - 1 as well (R79; log entry 7). -/
def Tester.squareLoop : Nat → Tester → Bool × Tester
  | 0, t => (false, t)
  | fuel + 1, t =>
    if t.d < t.n - 1 then
      let x := t.x * t.x % t.n
      let t' : Tester := { t with x := x, d := 2 * t.d }
      if x = 1 then (false, t')
      else if x = t.n - 1 then (true, t')
      else Tester.squareLoop fuel t'
    else (false, t)

/-- `MRCORE(a, d, n)` on a tester loaded with n, d, a, the round index and s (42_primality.md R77). DESIGN CHOICE: R77 is
followed for every d, so with a d that is not the odd part of n - 1 a prime can be reported Composite, where 00_scope.md R15
says that a result of 0 implies that n is not prime (log entry 12). -/
def Tester.mrCore (t : Tester) : Round :=
  let g := Engine.after t.a t.d t.n
  let t' : Tester := { t with x := g.r }
  if g.r = 1 ∨ g.r = t.n - 1 then { verdict := true, tester := t', engine := g }
  else
    let w := Tester.squareLoop (bitLen t.n) t'
    { verdict := w.1, tester := w.2, engine := g }

/-- The verdict of `MRCORE(a, d, n)` alone. -/
def mrCore (a d n : Nat) : Bool := ({ Tester.empty with n := n, d := d, a := a, round := 1 } : Tester).mrCore.verdict

/-! ### The driver -/

/-- Removing low zero bits, at most `fuel` of them (42_primality.md R83). -/
def splitLoop : Nat → Nat → Nat → Nat × Nat
  | 0, s, d => (s, d)
  | fuel + 1, s, d => if d % 2 = 0 then splitLoop fuel (s + 1) (d / 2) else (s, d)

/-- `SPLIT(n)` for n ≥ 2: (s, d) with n - 1 = 2^s * d and d odd (42_primality.md R83). -/
def split (n : Nat) : Nat × Nat := splitLoop (bitLen (n - 1)) 0 (n - 1)

/-- What ISPRIME_u leaves: its result, the source moved on, the tester and the engine. -/
structure PrimeTest where
  verdict : Bool
  src : Source
  tester : Tester
  engine : Engine
  deriving DecidableEq, Repr

/-- The rounds of ISPRIME_u still to run, a fresh witness each, stopping at the first Composite (42_primality.md R84). -/
def primeRounds (u : UnitId) (n s d : Nat) : Nat → Nat → Source → Tester → Engine → PrimeTest
  | 0, _, src, t, g => { verdict := true, src := src, tester := t, engine := g }
  | left + 1, j, src, _, _ =>
    let w := src.draw u 2 (n - 2)
    let r := ({ n := n, d := d, x := 0, a := w.1, round := j, s := s } : Tester).mrCore
    if r.verdict then primeRounds u n s d left (j + 1) w.2 r.tester r.engine
    else { verdict := false, src := w.2, tester := r.tester, engine := r.engine }

/-- `ISPRIME_u(n)` (42_primality.md R84), its tests in the source's order. -/
def primeTest (u : UnitId) (n : Nat) (src : Source) : PrimeTest :=
  if n ≤ 1 ∨ n = 4 then { verdict := false, src := src, tester := .empty, engine := .empty }
  else if n ≤ 3 then { verdict := true, src := src, tester := .empty, engine := .empty }
  else primeRounds u n (split n).1 (split n).2 Config.kRounds 1 src .empty .empty

/-! ### MR_ROUND, MR_ROUND_W, IS_PRIME -/

/-- A primality command's result, committed as 0 or 1 and copied to RESULT (42_primality.md R76). -/
def State.finishVerdict (rd : Nat) (v : Bool) (s : State) : State := s.finish rd v.toNat v

/-- MR_ROUND's domain check: n < 5 (42_primality.md R81). -/
def mrRoundOutside (l : Latch) : Bool := decide (l.op2 < 5)

/-- MR_ROUND's execute-and-commit step: one witness from RNG0, one round (42_primality.md R81). -/
def runMrRound (rd : Nat) (s : State) : State :=
  let w := s.rng0.draw .u0 2 (s.latch.op2 - 2)
  (s.setRng .u0 w.2).finishVerdict rd (mrCore w.1 s.latch.op1 s.latch.op2)

/-- MR_ROUND (42_primality.md R81): issue where the block is idle, else the execute-and-commit step. -/
def execMrRound (rd rs1 rs2 : Nat) (s : State) : Outcome :=
  if s.status.busy then .next (runMrRound rd s) else s.issue (.f3 rs1 rs2) mrRoundOutside State.startExec

/-- MR_ROUND_W's domain checks: n < 5 first, then a outside [2, n-2] (42_primality.md R82). -/
def mrRoundWOutside (l : Latch) : Bool := decide (l.op2 < 5) || decide (l.op3 < 2 ∨ l.op3 > l.op2 - 2)

/-- MR_ROUND_W's execute-and-commit step: one round with the witness given, no draw (42_primality.md R82). -/
def runMrRoundW (rd : Nat) (s : State) : State :=
  s.finishVerdict rd (mrCore s.latch.op3 s.latch.op1 s.latch.op2)

/-- MR_ROUND_W (42_primality.md R82): issue where the block is idle, else the execute-and-commit step. -/
def execMrRoundW (rd rs1 rs2 rs3 : Nat) (s : State) : Outcome :=
  if s.status.busy then .next (runMrRoundW rd s)
  else s.issue (.f4 rs1 rs2 rs3) mrRoundWOutside State.startExec

/-- IS_PRIME has no domain error (42_primality.md R85). -/
def isPrimeOutside (_ : Latch) : Bool := false

/-- IS_PRIME's execute-and-commit step (42_primality.md R85). -/
def runIsPrime (rd : Nat) (s : State) : State :=
  let t := primeTest .u0 s.latch.op1 s.rng0
  (s.setRng .u0 t.src).finishVerdict rd t.verdict

/-- IS_PRIME (42_primality.md R85): issue where the block is idle, else the execute-and-commit step. -/
def execIsPrime (rd rs1 : Nat) (s : State) : Outcome :=
  if s.status.busy then .next (runIsPrime rd s) else s.issue (.f2 rs1) isPrimeOutside State.startExec

end Sys2Proof.Machine
end

