-- ==== Sys2Proof/Machine/PrimeGen.lean ====
section
/-! DEFINITION. The rejection_sample_prime_generator (43_prime_generator.md): one candidate step of a unit (R87), and the
command GEN_PRIME (R92). -/

namespace Sys2Proof.Machine

/-- The least candidate of b bits (43_prime_generator.md R86). -/
def candLo (b : Nat) : Nat := 2 ^ (b - 1) + 1

/-- The greatest candidate of b bits (43_prime_generator.md R86). -/
def candHi (b : Nat) : Nat := 2 ^ b - 1

/-- A unit after it drew and tested candidate c (43_prime_generator.md R87). -/
def UnitState.tried (x : UnitState) (c : Nat) (t : PrimeTest) : UnitState :=
  { gen := { x.gen with c := c, found := t.verdict, res := if t.verdict then c else x.gen.res }
    tester := t.tester
    engine := t.engine }

/-- One iteration of `GENPRIME_u(b, CAND_LAT)`, one atomic step of UNITu: the cap test, or one candidate drawn, counted
and tested in full (43_prime_generator.md R87). -/
def State.searchStep (u : UnitId) (s : State) : State :=
  let x := s.unit u
  if s.latch.candCap ≠ 0 ∧ (s.cntPg u).toNat = s.latch.candCap then
    s.setUnit u { x with gen := { x.gen with fail := true } }
  else
    let w := (s.rng u).draw u (candLo x.gen.b) (candHi x.gen.b)
    let t := primeTest u w.1 w.2
    ((s.countCandidate u).setRng u t.src).setUnit u (x.tried w.1 t)

/-- A unit takes steps while its search runs: started, and neither Found nor Fail yet (43_prime_generator.md R87). -/
def UnitState.searchRuns (x : UnitState) : Bool := x.gen.active && !x.gen.found && !x.gen.fail

/-- GEN_PRIME's domain check: b outside [2, W] (43_prime_generator.md R91). -/
def genPrimeOutside (p : Params) (l : Latch) : Bool := decide (l.bits < 2 ∨ l.bits > p.maxBits)

/-- UNIT0 has reported Found or Fail, so the sequencer can end GEN_PRIME (50_host_interface.md R108). -/
def State.genPrimeReady (s : State) : Bool := s.unit0.gen.found || s.unit0.gen.fail

/-- GEN_PRIME's sequencer step: ATTEMPT_CAP, or the commit of the prime found; while UNIT0 still searches there is
nothing to do (43_prime_generator.md R92). -/
def runGenPrime (rd : Nat) (s : State) : State :=
  if s.unit0.gen.fail then s.completeError .attemptCap
  else if s.unit0.gen.found then s.finish rd s.unit0.gen.res false
  else s

/-- GEN_PRIME (43_prime_generator.md R92): issue where the block is idle, else the sequencer's step. -/
def execGenPrime (rd : Nat) (s : State) : Outcome :=
  if s.status.busy then .next (runGenPrime rd s)
  else s.issue .f1 (genPrimeOutside s.params) State.startGenPrime

end Sys2Proof.Machine
end

