-- ==== Sys2Proof/Machine/Keypair.lean ====
section
/-! DEFINITION. The keypair_derivation_fsm (44_keypair_fsm.md): one sequencer step per state, and the command KEYGEN. -/

namespace Sys2Proof.Machine

/-- KEYGEN's domain check: b odd, below MIN_KEY_BITS or above W (44_keypair_fsm.md R93). -/
def keygenOutside (p : Params) (l : Latch) : Bool :=
  decide (l.bits % 2 ≠ 0 ∨ l.bits < Config.minKeyBits ∨ l.bits > p.maxBits)

/-- The state with the FSM moved and the keypair values replaced. -/
def State.moveTo (st : SeqState) (k : KeyRegs) (s : State) : State :=
  { s with status := { s.status with state := st }, seq := { s.seq with key := k } }

/-- The sequencer no longer holds in SEARCHING_PRIMES: a unit reports Fail, or both Found (44_keypair_fsm.md R94). -/
def State.joinReady (s : State) : Bool :=
  s.unit0.gen.fail || s.unit1.gen.fail || (s.unit0.gen.found && s.unit1.gen.found)

/-- The join of SEARCHING_PRIMES (44_keypair_fsm.md R94); before it is ready the sequencer holds. -/
def keygenJoin (s : State) : State :=
  if s.unit0.gen.fail || s.unit1.gen.fail then s.completeError .attemptCap
  else if s.unit0.gen.found && s.unit1.gen.found then
    s.stopUnits.moveTo .computingModulus { s.seq.key with p := s.unit0.gen.res, q := s.unit1.gen.res }
  else s

/-- COMPUTING_MODULUS (44_keypair_fsm.md R95). -/
def keygenModulus (s : State) : State :=
  let k := s.seq.key
  (s.setNt (steinScratch (k.p - 1) (k.q - 1))).moveTo .validatingExponent
    { k with n := k.p * k.q, lam := lcmF (k.p - 1) (k.q - 1) }

/-- p, q, n and lam discarded, the other keypair values kept (44_keypair_fsm.md R96; the zeros are log entry 3's). -/
def KeyRegs.discardPrimes (k : KeyRegs) : KeyRegs := { k with p := 0, q := 0, n := 0, lam := 0 }

/-- The back-edge, `k` being the keypair values at the failed test: p, q, n and lam discarded, CNT_RESTART one higher, both
searches started afresh; CNT_PG0 and CNT_PG1 keep counting (44_keypair_fsm.md R96). -/
def keygenRestart (k : KeyRegs) (s : State) : State :=
  { s.enterSearching with cntRestart := satInc s.cntRestart, seq := { s.seq with key := k.discardPrimes } }

/-- VALIDATING_EXPONENT: e is set before the test, whichever way it goes (44_keypair_fsm.md R96). DESIGN CHOICE: the test is
R96's at every bit size, so at b ≤ 38 a composite that passed ISPRIME can take the back-edge; R97 and R103 say that none
occurs there, an enumeration over primes (log entry 11). -/
def keygenValidate (s : State) : State :=
  let k : KeyRegs := { s.seq.key with e := Config.ePub }
  let t := s.setNt (steinScratch k.e k.lam)
  if stein k.e k.lam ≠ 1 then
    if s.latch.restartCap ≠ 0 ∧ s.cntRestart.toNat = s.latch.restartCap then t.completeError .attemptCap
    else keygenRestart k t
  else t.moveTo .computingPrivateExponent k

/-- COMPUTING_PRIVATE_EXPONENT (44_keypair_fsm.md R98). That e has no inverse modulo lam cannot happen after
VALIDATING_EXPONENT; the spec calls any such event fatal to the attempt, so it ends as the other one does. -/
def keygenPrivate (s : State) : State :=
  let k := s.seq.key
  match modInvF k.e k.lam with
  | .notCoprime _ => s.completeError .notCoprime
  | .ok d =>
    match modInvF k.q k.p with
    | .notCoprime _ => s.completeError .notCoprime
    | .ok v =>
      (s.setNt (euclidScratch k.q k.p)).moveTo .done
        { k with d := d, dP := d % (k.p - 1), dQ := d % (k.q - 1), qInv := v }

/-- The nine results, BR0 to BR8 (44_keypair_fsm.md R100). -/
def KeyRegs.results (k : KeyRegs) : List (Nat × Nat) :=
  [(0, k.n), (1, k.e), (2, k.d), (3, k.p), (4, k.q), (5, k.dP), (6, k.dQ), (7, k.qInv), (8, k.lam)]

/-- One sequencer step of a running KEYGEN (44_keypair_fsm.md R101). A busy block that runs KEYGEN is never IDLE or in
EXEC, and there the sequencer has no step. -/
def runKeygen (s : State) : State :=
  match s.status.state with
  | .searchingPrimes => keygenJoin s
  | .computingModulus => keygenModulus s
  | .validatingExponent => keygenValidate s
  | .computingPrivateExponent => keygenPrivate s
  | .done => s.commit s.seq.key.results false
  | .idle => s
  | .exec => s

/-- KEYGEN (44_keypair_fsm.md R103): issue where the block is idle, else the FSM's step. -/
def execKeygen (s : State) : Outcome :=
  if s.status.busy then .next (runKeygen s)
  else s.issue .f0 (keygenOutside s.params) State.enterSearching

end Sys2Proof.Machine
end

