-- ==== Sys2Proof/Machine/Rsa.lean ====
section
/-! DEFINITION. The RSA encryption primitive RSAEP (45_rsa_primitive.md R104). -/

namespace Sys2Proof.Machine

/-- RSAEP's domain check: m ≥ n, which covers n = 0 (45_rsa_primitive.md R104). -/
def rsaepOutside (l : Latch) : Bool := decide (l.op1 ≥ l.op3)

/-- RSAEP's execute-and-commit step (45_rsa_primitive.md R104). -/
def runRsaep (rd : Nat) (s : State) : State := s.finish rd (modExp s.latch.op1 s.latch.op2 s.latch.op3) false

/-- RSAEP (45_rsa_primitive.md R104): issue where the block is idle, else the execute-and-commit step. -/
def execRsaep (rd rs1 rs2 rs3 : Nat) (s : State) : Outcome :=
  if s.status.busy then .next (runRsaep rd s) else s.issue (.f4 rs1 rs2 rs3) rsaepOutside State.startExec

end Sys2Proof.Machine
end

