-- ==== Sys2Proof/Machine/Dispatch.lean ====
section
/-! DEFINITION. exec: the meaning of each command, one arm per constructor of Instr. -/

namespace Sys2Proof.Machine

/-- The meaning of a command in the phase the state is in: its issue where BUSY = 0 (50_host_interface.md R106), the
sequencer's next step of it where BUSY = 1 (R108). -/
def exec (i : Instr) (s : State) : Host.Outcome State Fault Refusal :=
  match i with
  | .modexp rd rs1 rs2 rs3 => Sys2Proof.Machine.execModexp rd rs1 rs2 rs3 s
  | .gcd rd rs1 rs2 => Sys2Proof.Machine.execGcd rd rs1 rs2 s
  | .lcm rd rs1 rs2 => Sys2Proof.Machine.execLcm rd rs1 rs2 s
  | .modinv rd rs1 rs2 => Sys2Proof.Machine.execModinv rd rs1 rs2 s
  | .mrRound rd rs1 rs2 => Sys2Proof.Machine.execMrRound rd rs1 rs2 s
  | .mrRoundW rd rs1 rs2 rs3 => Sys2Proof.Machine.execMrRoundW rd rs1 rs2 rs3 s
  | .isPrime rd rs1 => Sys2Proof.Machine.execIsPrime rd rs1 s
  | .genPrime rd => Sys2Proof.Machine.execGenPrime rd s
  | .keygen => Sys2Proof.Machine.execKeygen s
  | .rsaep rd rs1 rs2 rs3 => Sys2Proof.Machine.execRsaep rd rs1 rs2 rs3 s

end Sys2Proof.Machine
end

