-- ==== Sys2Proof/Machine/Window.lean ====
section
/-! DEFINITION. The host's side: the register window's read and write rules (20_memory.md, 10_state.md section 4), the
issue of a command word (50_host_interface.md R106), and one host step (R110). -/

namespace Sys2Proof.Machine

/-! ### The window's layout -/

/-- WINDOW_SIZE (00_scope.md R7). -/
def windowSize : Nat := 0x3000

/-- The registers of the window by offset (10_state.md R23, 20_memory.md R42, R43). -/
inductive Place where
  | id
  | param
  | cmd
  | status
  | ctrl
  | bitsize
  | irq
  | attemptCap
  | cntPg0
  | cntPg1
  | cntRestart
  /-- No register: reads 0, writes ignored. -/
  | hole
  /-- Word j of BRi. -/
  | br (i j : Nat)
  deriving DecidableEq, Repr

/-- What stands at an aligned offset of the window (10_state.md R23, 20_memory.md R42, R43). -/
def placeAt (off : Nat) : Place :=
  if off = 0x000 then .id
  else if off = 0x004 then .param
  else if off = 0x008 then .cmd
  else if off = 0x00C then .status
  else if off = 0x010 then .ctrl
  else if off = 0x014 then .bitsize
  else if off = 0x018 then .irq
  else if off = 0x01C then .attemptCap
  else if off = 0x020 then .cntPg0
  else if off = 0x024 then .cntPg1
  else if off = 0x028 then .cntRestart
  else if off < 0x1000 then .hole
  else .br ((off - 0x1000) / 0x200) ((off - 0x1000) % 0x200 / 4)

/-! ### Register words -/

/-- ID (10_state.md R25). -/
def idWord : Word := 0x4D525443

/-- PARAM: MAX_WORDS [7:0], K_ROUNDS [11:8], MIN_KEY_BITS [31:16] (10_state.md R26). -/
def paramWord (p : Params) : Word :=
  BitVec.ofNat 32 (p.maxWords + 2 ^ 8 * Config.kRounds + 2 ^ 16 * Config.minKeyBits)

/-- ATTEMPT_CAP: CAND_CAP [15:0], RESTART_CAP [31:16] (10_state.md R32). -/
def State.attemptCapWord (s : State) : Word := BitVec.ofNat 32 (s.candCap.toNat + 2 ^ 16 * s.restartCap.toNat)

/-- What a host read of a place returns. No read changes the block (20_memory.md R48). -/
def State.readPlace (s : State) : Place → Word
  | .id => idWord
  | .param => paramWord s.params
  | .cmd => s.cmd
  | .status => s.status.toWord
  | .ctrl => BitVec.ofNat 32 s.irqEn.toNat
  | .bitsize => BitVec.ofNat 32 s.bitsize.toNat
  | .irq => s.irq.toWord
  | .attemptCap => s.attemptCapWord
  | .cntPg0 => s.cntPg0
  | .cntPg1 => s.cntPg1
  | .cntRestart => s.cntRestart
  | .hole => 0
  | .br i j => if j < s.params.maxWords then s.mem.readWord (brOffset i + 4 * j) else 0

/-- A host read of a place is the read of an unwritten big-register word (10_state.md R19, 50_host_interface.md R110). -/
def State.unwrittenPlace (s : State) : Place → Bool
  | .id => false
  | .param => false
  | .cmd => false
  | .status => false
  | .ctrl => false
  | .bitsize => false
  | .irq => false
  | .attemptCap => false
  | .cntPg0 => false
  | .cntPg1 => false
  | .cntRestart => false
  | .hole => false
  | .br i j => decide (j < s.params.maxWords) && !s.written i j

/-! ### Writes -/

/-- A write dropped because the block is busy: only IRQ.WBUSY_P changes (10_state.md R34). -/
def State.dropWrite (s : State) : State := { s with irq := { s.irq with wbusyP := true } }

/-- The state in which an accepted word w is decoded: CMD latched, DONE, ERR, RESULT and ERRCODE cleared
(50_host_interface.md R106). -/
def State.acceptWord (w : Word) (s : State) : State := { s with cmd := w, status := s.status.accepted }

/-- 50_host_interface.md R106: the issue step. -/
def State.writeCmd (w : Word) (s : State) : Outcome :=
  if s.status.busy then .next s.dropWrite
  else
    match decode w with
    | .error _ => .next ((s.acceptWord w).completeError .illegalCmd)
    | .ok i => exec i (s.acceptWord w)

/-- A write to CTRL: the soft reset where bit 1 is 1, else IRQ_EN (10_state.md R29). -/
def State.writeCtrl (w : Word) (s : State) : State :=
  if w.getLsbD 1 then s.softReset else { s with irqEn := w.getLsbD 0 }

/-- A write to a place the busy block drops, with its effect while idle (10_state.md R34). -/
def State.unlessBusy (f : State → State) (s : State) : State := if s.status.busy then s.dropWrite else f s

/-- A write to word j of BRi of an idle block (20_memory.md R43); the word becomes written (10_state.md R19). -/
def State.writeBrWord (i j : Nat) (w : Word) (s : State) : State :=
  if j < s.params.maxWords then
    { s with mem := s.mem.writeWord (brOffset i + 4 * j) w, writtenBits := s.writtenBits.markWord i j }
  else s

/-- The write rule of each place (10_state.md R23 to R34, 20_memory.md R43). -/
def State.writePlace (s : State) (w : Word) : Place → Outcome
  | .id => .next s
  | .param => .next s
  | .cmd => s.writeCmd w
  | .status => .next s
  | .ctrl => .next (s.writeCtrl w)
  | .bitsize => .next (s.unlessBusy fun t => { t with bitsize := w.setWidth 16 })
  | .irq => .next { s with irq := s.irq.clear w }
  | .attemptCap =>
    .next (s.unlessBusy fun t => { t with candCap := w.setWidth 16, restartCap := (w >>> 16).setWidth 16 })
  | .cntPg0 => .next s
  | .cntPg1 => .next s
  | .cntRestart => .next s
  | .hole => .next s
  | .br i j => .next (s.unlessBusy (State.writeBrWord i j w))

/-! ### One access -/

/-- An absolute address belongs to the block's window (20_memory.md R41, R42). -/
def State.selects (s : State) (addr : Nat) : Bool :=
  decide (s.params.base ≤ addr ∧ addr < s.params.base + windowSize)

/-- The access is one the block performs: one aligned 32-bit word (20_memory.md R46). -/
def State.aligned (s : State) (addr width : Nat) : Bool :=
  decide (width = 4 ∧ (addr - s.params.base) % 4 = 0)

/-- The state with the bus answer recorded. -/
def State.answer (r : BusResp) (s : State) : State := { s with resp := r }

/-- One host step's access (50_host_interface.md R110), or the platform's reset (70_reset_and_hazards.md R129). The read
of an unwritten big-register word is recorded (10_state.md R19, 50_host_interface.md R110; log entry 2). -/
def State.perform (s : State) : BusOp → Outcome
  | .hardReset => .next s.hardReset
  | .read addr width =>
    if s.selects addr then
      if s.aligned addr width then
        .next ((s.noteUnwritten (s.unwrittenPlace (placeAt (addr - s.params.base)))).answer
          (.data (s.readPlace (placeAt (addr - s.params.base)))))
      else .next (s.answer (.busError 0))
    else .next (s.answer .notSelected)
  | .write addr width w =>
    if s.selects addr then
      if s.aligned addr width then (s.answer .written).writePlace w (placeAt (addr - s.params.base))
      else .next (s.answer (.busError 0))
    else .next (s.answer .notSelected)

/-- A host step: the oldest pending access is performed (20_memory.md R50). -/
def State.hostStep (s : State) : Outcome :=
  match s.bus with
  | [] => .next s
  | op :: rest => ({ s with bus := rest } : State).perform op

end Sys2Proof.Machine
end

