-- ==== Sys2Proof/Machine/Agents.lean ====
section
/-! DEFINITION. The agents (00_scope.md R9): which of them can step, which one does, and its step. -/

namespace Sys2Proof.Machine

/-- The sequencer has a step to take: a command runs and is not waiting for a unit (10_state.md R21, 50_host_interface.md
R108, 44_keypair_fsm.md R94). -/
def State.seqEnabled (s : State) : Bool :=
  match s.status.state with
  | .idle => false
  | .exec =>
    match decode s.cmd with
    | .ok (.genPrime _) => s.genPrimeReady
    | .ok _ => true
    | .error _ => false
  | .searchingPrimes => s.joinReady
  | .computingModulus => true
  | .validatingExponent => true
  | .computingPrivateExponent => true
  | .done => true

/-- The agent can take a step. -/
def State.agentEnabled (s : State) : Agent → Bool
  | .host => !s.bus.isEmpty
  | .seq => s.seqEnabled
  | .unit u => (s.unit u).searchRuns

/-- The agents that can take a step. -/
def State.enabled (s : State) : List Agent :=
  [Agent.host, Agent.seq, Agent.unit .u0, Agent.unit .u1].filter s.agentEnabled

/-- The sequencer's step: the running command, which CMD still holds (10_state.md R20, R27), goes on. -/
def State.seqStep (s : State) : Outcome :=
  match decode s.cmd with
  | .ok i => exec i s
  | .error _ => .next s

/-- The step of one agent. -/
def State.agentStep (s : State) : Agent → Outcome
  | .host => s.hostStep
  | .seq => s.seqStep
  | .unit u => .next (s.searchStep u)

/-- A free choice among the enabled agents `a :: as`; where only one is enabled there is none to make (log entry 6). -/
def State.chooseFree (a : Agent) (as : List Agent) (s : State) : Agent × State :=
  match as with
  | [] => (a, s)
  | _ :: _ =>
    ((a :: as).getD (Config.schedule s.schedTaken % (as.length + 1)) a, { s with schedTaken := s.schedTaken + 1 })

/-- The agent that moves: the one the next queued turn names, if it is enabled; else a free choice (log entry 6). -/
def State.choose (a : Agent) (as : List Agent) (s : State) : Agent × State :=
  match s.turns with
  | [] => s.chooseFree a as
  | t :: ts => if t ∈ a :: as then (t, { s with turns := ts }) else ({ s with turns := ts } : State).chooseFree a as

/-- One step of the whole machine: one enabled agent's. Where none is enabled nothing happens (60_exceptions.md R128). -/
def State.advance (s : State) : Outcome :=
  match s.enabled with
  | [] => .next s
  | a :: as => (s.choose a as).2.agentStep (s.choose a as).1

end Sys2Proof.Machine
end

