-- ==== Sys2Proof/Machine/Step.lean ====
section
/-! DEFINITION. The machine's step, and the placing of one command word where the next step takes it from. -/

namespace Sys2Proof.Machine

/-- One step of one agent (00_scope.md R9); it only calls `State.advance`. -/
def step (s : State) : Host.Outcome State Fault Refusal := s.advance

/-- The block fetches nothing (20_memory.md R53): a command comes as the host's write of a word to CMD. The write of `w`,
its bits at and above `nbits` 0, is put first among the pending accesses and the host is given the next turn (log entry 5). -/
def State.withFetchWord (s : State) (nbits w : Nat) : State :=
  { s with
    bus := .write (s.params.base + 0x008) 4 (BitVec.ofNat 32 (w % 2 ^ nbits)) :: s.bus
    turns := .host :: s.turns }

end Sys2Proof.Machine
end

