-- ==== Sys2Proof/Safety.lean ====
section
/-! DEFINITION. What a safe state is, in the terms the claims use: the invariants of STATUS, of the window's bytes, of the
control state and the search units, of the keypair values, and of the attempt counters. -/

namespace Sys2Proof

/-- The source registers a command names: the RS1, RS2 and RS3 its format uses (30_encoding.md R57). -/
def Instr.sourceRegs : Instr → List Nat
  | .modexp _ rs1 rs2 rs3 => [rs1, rs2, rs3]
  | .gcd _ rs1 rs2 => [rs1, rs2]
  | .lcm _ rs1 rs2 => [rs1, rs2]
  | .modinv _ rs1 rs2 => [rs1, rs2]
  | .mrRound _ rs1 rs2 => [rs1, rs2]
  | .mrRoundW _ rs1 rs2 rs3 => [rs1, rs2, rs3]
  | .isPrime _ rs1 => [rs1]
  | .genPrime _ => []
  | .keygen => []
  | .rsaep _ rs1 rs2 rs3 => [rs1, rs2, rs3]

/-- The big registers a command writes at its commit (10_state.md R18). -/
def Instr.destRegs : Instr → List Nat
  | .modexp rd _ _ _ => [rd]
  | .gcd rd _ _ => [rd]
  | .lcm rd _ _ => [rd]
  | .modinv rd _ _ => [rd]
  | .mrRound rd _ _ => [rd]
  | .mrRoundW rd _ _ _ => [rd]
  | .isPrime rd _ => [rd]
  | .genPrime rd => [rd]
  | .keygen => [0, 1, 2, 3, 4, 5, 6, 7, 8]
  | .rsaep rd _ _ _ => [rd]

end Sys2Proof

namespace Sys2Proof.Machine

/-! ### Accesses -/

/-- The host's 32-bit read at an offset of the window (50_host_interface.md R110). -/
def State.readAt (s : State) (off : Nat) : BusOp := .read (s.params.base + off) 4

/-- The host's 32-bit write at an offset of the window (50_host_interface.md R110). -/
def State.writeAt (s : State) (off : Nat) (w : Word) : BusOp := .write (s.params.base + off) 4 w

/-- The offset of word j of BRi (20_memory.md R43). -/
def wordOffset (i j : Nat) : Nat := 0x1000 + 0x200 * i + 4 * j

/-! ### Runs without an unwritten read -/

/-- `t` is the successor of `s` in the spec's own sense: the step to it, where the fault UnwrittenRead is not recorded; from the
step that records it on "the run stops there with no successor state" (60_exceptions.md R116; log entry 2). A claim about a
program speaks of runs of such steps, and shows that each has one. -/
def State.Successor (s t : State) : Prop := step s = .next t ∧ t.unwrittenRead = false

/-! ### One Miller-Rabin round, in powers -/

/-- The round of 42_primality.md R77 reports ProbablyPrime, said without the loop: a^d is 1 modulo n, or one of the values
a^(d * 2^r) the loop reaches is n - 1; it reaches r ≥ 1 when d * 2^(r-1) < n - 1. -/
def RoundPasses (a d n : Nat) : Prop :=
  a ^ d % n = 1 ∨ ∃ r, (r = 0 ∨ d * 2 ^ (r - 1) < n - 1) ∧ a ^ (d * 2 ^ r) % n = n - 1

/-- The first `k` answers of a source to `draw_u(lo, hi)`, in order, and the source after them (00_scope.md R13). -/
def Source.drawList (u : UnitId) (lo hi : Nat) : Nat → Source → List Nat × Source
  | 0, src => ([], src)
  | k + 1, src =>
    let w := src.draw u lo hi
    let rest := Source.drawList u lo hi k w.2
    (w.1 :: rest.1, rest.2)

/-! ### STATUS -/

/-- The three invariants of 10_state.md R28. -/
abbrev State.StatusInv (s : State) : Prop :=
  (s.status.busy = true ↔ s.status.state ≠ .idle) ∧
  (s.status.err = true ↔ s.status.errCode ≠ .noError) ∧
  (s.status.done = true → s.status.busy = false)

/-! ### The window's bytes -/

/-- The byte belongs to a word of a big register that holds bits (20_memory.md R43). -/
abbrev State.storageByte (s : State) (a : Nat) : Prop :=
  0x1000 ≤ a ∧ a < 0x3000 ∧ (a - 0x1000) % 0x200 < s.brBytes

/-- The bytes are in canonical form, only bytes of written words that hold bits are listed, and only words that hold bits
are written (10_state.md R19, 20_memory.md R43). -/
abbrev State.MemInv (s : State) : Prop :=
  s.mem.wf ∧
  (∀ c ∈ s.mem, s.storageByte c.1 ∧ s.written ((c.1 - 0x1000) / 0x200) ((c.1 - 0x1000) % 0x200 / 4) = true) ∧
  (∀ i < 16, ∀ j < 128, s.written i j = true → j < s.params.maxWords)

/-! ### Control -/

/-- ISPRIME_u(c) returns 1 for some answers of RNGu. It holds of every prime; of a composite only where some of its
witnesses are liars (42_primality.md R84, 43_prime_generator.md R88). -/
def PassesTest (u : UnitId) (c : Nat) : Prop := ∃ src : Source, (primeTest u c src).verdict = true

/-- UNITu searches for a prime of `b` bits: what it holds while its search runs and after its report, when the value found
is a candidate of b bits that passed the unit's test (10_state.md R37, 43_prime_generator.md R87, R88). -/
abbrev UnitState.Searching (x : UnitState) (u : UnitId) (b : Nat) : Prop :=
  x.gen.active = true ∧ x.gen.b = b ∧ ¬(x.gen.found = true ∧ x.gen.fail = true) ∧
  (x.gen.found = true → candLo b ≤ x.gen.res ∧ x.gen.res ≤ candHi b ∧ PassesTest u x.gen.res)

/-- Everything hidden is discarded (10_state.md R40). -/
abbrev State.Quiet (s : State) : Prop :=
  s.latch = .empty ∧ s.unit0 = .empty ∧ s.unit1 = .empty ∧ s.seq = .empty

/-- The latched operands fit a big register (10_state.md R36). -/
abbrev State.LatchFits (s : State) : Prop :=
  s.latch.op1 < 2 ^ s.params.maxBits ∧ s.latch.op2 < 2 ^ s.params.maxBits ∧ s.latch.op3 < 2 ^ s.params.maxBits

/-- KEYGEN runs: CMD holds it, and the latched bit size is a legal one (44_keypair_fsm.md R93). -/
abbrev State.KeygenRuns (s : State) : Prop :=
  decode s.cmd = .ok .keygen ∧
  s.latch.bits % 2 = 0 ∧ Config.minKeyBits ≤ s.latch.bits ∧ s.latch.bits ≤ s.params.maxBits

/-- The command in CMD is one that runs in EXEC, and its units are as it needs them: a running search with a legal bit
length on UNIT0 for GEN_PRIME, none for any other (10_state.md R21, 43_prime_generator.md R91, R92). -/
def State.ExecRuns (s : State) : Prop :=
  match decode s.cmd with
  | .ok (.genPrime _) => s.unit0.Searching .u0 s.latch.bits ∧ 2 ≤ s.latch.bits ∧ s.latch.bits ≤ s.params.maxBits
  | .ok .keygen => False
  | .ok _ => s.unit0 = .empty
  | .error _ => False

/-- What every reachable state's control part satisfies in each value of STATUS.STATE (10_state.md R21, R36 to R38). -/
def State.ControlInv (s : State) : Prop :=
  s.StatusInv ∧ s.LatchFits ∧
  match s.status.state with
  | .idle => s.Quiet
  | .exec => s.ExecRuns ∧ s.unit1 = .empty ∧ s.seq = .empty
  | .searchingPrimes =>
    s.KeygenRuns ∧ s.unit0.Searching .u0 (s.latch.bits / 2) ∧ s.unit1.Searching .u1 (s.latch.bits / 2) ∧
    s.seq.key.p = 0 ∧ s.seq.key.q = 0 ∧ s.seq.key.n = 0 ∧ s.seq.key.lam = 0
  | .computingModulus => s.KeygenRuns ∧ s.unit0 = .empty ∧ s.unit1 = .empty
  | .validatingExponent => s.KeygenRuns ∧ s.unit0 = .empty ∧ s.unit1 = .empty
  | .computingPrivateExponent => s.KeygenRuns ∧ s.unit0 = .empty ∧ s.unit1 = .empty
  | .done => s.KeygenRuns ∧ s.unit0 = .empty ∧ s.unit1 = .empty

/-! ### The keypair values -/

/-- p and q are candidates of h = b / 2 bits, p passed UNIT0's test and q UNIT1's (44_keypair_fsm.md R94,
43_prime_generator.md R88). -/
abbrev State.PrimesLatched (s : State) : Prop :=
  candLo (s.latch.bits / 2) ≤ s.seq.key.p ∧ s.seq.key.p ≤ candHi (s.latch.bits / 2) ∧
  candLo (s.latch.bits / 2) ≤ s.seq.key.q ∧ s.seq.key.q ≤ candHi (s.latch.bits / 2) ∧
  PassesTest .u0 s.seq.key.p ∧ PassesTest .u1 s.seq.key.q

/-- n and λ are those of p and q (44_keypair_fsm.md R95). -/
abbrev KeyRegs.ModulusKnown (k : KeyRegs) : Prop := k.n = k.p * k.q ∧ k.lam = Nat.lcm (k.p - 1) (k.q - 1)

/-- The exponent is 65537 and is coprime to λ (44_keypair_fsm.md R96). -/
abbrev KeyRegs.ExponentValid (k : KeyRegs) : Prop := k.e = 65537 ∧ Nat.gcd k.e k.lam = 1

/-- The private values' equations (44_keypair_fsm.md R98, R102). -/
abbrev KeyRegs.PrivateKnown (k : KeyRegs) : Prop :=
  k.d * k.e % k.lam = 1 ∧ k.d < k.lam ∧ k.dP = k.d % (k.p - 1) ∧ k.dQ = k.d % (k.q - 1) ∧
  k.qInv * k.q % k.p = 1 ∧ k.qInv < k.p

/-- What the keypair registers hold in each KEYGEN state (44_keypair_fsm.md R94 to R100, R102). -/
def State.KeyInv (s : State) : Prop :=
  match s.status.state with
  | .idle => True
  | .exec => True
  | .searchingPrimes => True
  | .computingModulus => s.PrimesLatched
  | .validatingExponent => s.PrimesLatched ∧ s.seq.key.ModulusKnown
  | .computingPrivateExponent => s.PrimesLatched ∧ s.seq.key.ModulusKnown ∧ s.seq.key.ExponentValid
  | .done => s.PrimesLatched ∧ s.seq.key.ModulusKnown ∧ s.seq.key.ExponentValid ∧ s.seq.key.PrivateKnown

/-! ### The attempt counters -/

/-- While a command runs with a cap that is not 0, no counter is beyond its cap (70_reset_and_hazards.md R134). -/
abbrev State.CapInv (s : State) : Prop :=
  s.status.busy = true →
    (s.latch.candCap ≠ 0 → s.cntPg0.toNat ≤ s.latch.candCap ∧ s.cntPg1.toNat ≤ s.latch.candCap) ∧
    (s.latch.restartCap ≠ 0 → s.cntRestart.toNat ≤ s.latch.restartCap)

end Sys2Proof.Machine
end

