-- ==== Sys2Proof/Certificates/Slice0/Obligations.lean ====
section
/-! DEFINITION. The statements about the model, each a Prop; OBLIGATIONS.json lists them with the rules they rest on. A
statement about x[i] speaks of the value BRi holds, `readBr`. That a register with an unwritten word holds one too, and that
the read of such a word goes on and is recorded in the model's own field unwrittenRead, is the model's choice (log entry 2). -/

open Sys2Proof Sys2Proof.Machine

/-! ### Encoding -/

/-- The examples of 30_encoding.md R64 and one word of each other command, from the words 95_test_vectors.md 2.1 lists. -/
def Obligations.SampleWordsDecode : Prop :=
  decode 0x00321401 = .ok (.modexp 4 1 2 3) ∧ decode 0x00010210 = .ok (.gcd 2 0 1) ∧
  decode 0x00043511 = .ok (.lcm 5 3 4) ∧ decode 0x00043512 = .ok (.modinv 5 3 4) ∧
  decode 0x00010520 = .ok (.mrRound 5 0 1) ∧ decode 0x00210521 = .ok (.mrRoundW 5 0 1 2) ∧
  decode 0x00006522 = .ok (.isPrime 5 6) ∧ decode 0x00000730 = .ok (.genPrime 7) ∧
  decode 0x00000040 = .ok .keygen ∧ decode 0x00321050 = .ok (.rsaep 0 1 2 3)

/-- Decoding the word of any well-formed command gives the command back, every operand at every value (R62, R64). -/
def Obligations.DecodeOfEncode : Prop :=
  ∀ i : Instr, i.WellFormed → decode (encode i) = .ok i

/-- A word that decodes is the word of the well-formed command it decodes to, so each command has one word (R62, R64). -/
def Obligations.EncodeOfDecode : Prop :=
  ∀ (w : Word) (i : Instr), decode w = .ok i → i.WellFormed ∧ encode i = w

/-- A word is a legal command exactly when it matches a row of spec/opcode_table.json, mask and match as the table has
them (R62). -/
def Obligations.LegalWordsMatchTable : Prop :=
  ∀ w : Word, (∃ i, decode w = .ok i) ↔
    ∃ row ∈ ([(0xFF0000FF, 0x01), (0xFFF000FF, 0x10), (0xFFF000FF, 0x11), (0xFFF000FF, 0x12), (0xFFF000FF, 0x20),
        (0xFF0000FF, 0x21), (0xFFFF00FF, 0x22), (0xFFFFF0FF, 0x30), (0xFFFFFFFF, 0x40),
        (0xFF0000FF, 0x50)] : List (Word × Word)),
      w &&& row.1 = row.2

/-! ### A step -/

/-- An idle block whose next access is a write of a legal word to CMD runs that command: the step is exec of it in the
state where the access is taken, CMD holds the word and DONE, ERR, RESULT and ERRCODE are cleared (R27, R106). The
queues bus and turns are the model's own fields (log entries 5 and 6). -/
def Obligations.CommandWordIsRun : Prop :=
  ∀ (s : State) (w : Word) (rest : List BusOp) (i : Instr),
    s.bus = s.writeAt 0x008 w :: rest → s.status.busy = false → s.status.state = .idle →
    s.unit0.gen.active = false → s.unit1.gen.active = false → decode w = .ok i →
    step s = exec i
      { s with
        bus := rest
        turns := s.turns.tail
        resp := .written
        cmd := w
        status := { s.status with done := false, err := false, result := false, errCode := .noError } }

/-- Wherever the sequencer has a step to take, that step is exec of the command CMD holds: a command in EXEC (GEN_PRIME once
UNIT0 has reported Found or Fail), KEYGEN at a join that is ready, and KEYGEN in each later state (R20, R27, R94, R108). It is
taken where the next queued turn is the sequencer's, whatever else is enabled, and where nothing else is enabled. How a
queued turn is used up and that the outside is the queue bus are the model's choices (log entries 6 and 5). -/
def Obligations.RunningCommandGoesOn : Prop :=
  ∀ (s : State) (i : Instr), decode s.cmd = .ok i →
    (s.status.state = .exec ∧ ((∀ rd, i ≠ .genPrime rd) ∨ s.unit0.gen.found = true ∨ s.unit0.gen.fail = true) ∨
      s.status.state = .searchingPrimes ∧ (s.unit0.gen.fail = true ∨ s.unit1.gen.fail = true ∨
        s.unit0.gen.found = true ∧ s.unit1.gen.found = true) ∨
      s.status.state = .computingModulus ∨ s.status.state = .validatingExponent ∨
      s.status.state = .computingPrivateExponent ∨ s.status.state = .done) →
    (∀ ts, s.turns = .seq :: ts → step s = exec i { s with turns := ts }) ∧
    (s.bus = [] → s.unit0.searchRuns = false → s.unit1.searchRuns = false → step s = exec i { s with turns := s.turns.tail })

/-- Every step is the step of one enabled agent, the choice of which moves only the model's scheduling fields; with no
agent enabled nothing happens (R9, R128). That a step with no agent enabled answers the same state is the model's choice
(log entry 6). -/
def Obligations.StepIsOneEnabledAgents : Prop :=
  ∀ s : State,
    ((∀ a, s.agentEnabled a = false) ∧ step s = .next s) ∨
    ∃ a ts k, s.agentEnabled a = true ∧ step s = ({ s with turns := ts, schedTaken := k } : State).agentStep a

/-! ### Host accesses -/

/-- R46: in the window, an access of another width than four bytes or at an offset not a multiple of 4 is a bus error
that changes nothing and returns 0; no aligned 32-bit access is one. The answer stands in the model's own field resp
(log entry 5). -/
def Obligations.BadAccessIsBusError : Prop :=
  ∀ (s : State) (off width : Nat) (w : Word), off < 0x3000 →
    (width ≠ 4 ∨ off % 4 ≠ 0 →
      s.perform (.read (s.params.base + off) width) = .next { s with resp := .busError 0 } ∧
      s.perform (.write (s.params.base + off) width w) = .next { s with resp := .busError 0 }) ∧
    (width = 4 ∧ off % 4 = 0 → ∀ t,
      (s.perform (s.readAt off) = .next t ∨ s.perform (s.writeAt off w) = .next t) → t.resp ≠ .busError 0)

/-- Every read answers, and no read, and no access outside the window, changes the block: only the bus answer moves, and the
record of an unwritten read, which is never taken back (R42, R48; log entry 2). That an access outside
the window is a next state with an answer of its own is the model's choice (log entry 5): R42 leaves it to the platform. -/
def Obligations.ReadsChangeNothing : Prop :=
  ∀ (s : State) (addr width : Nat) (w : Word),
    (∃ t, s.perform (.read addr width) = .next t ∧
      t = { s with resp := t.resp, unwrittenRead := t.unwrittenRead } ∧ (s.unwrittenRead = true → t.unwrittenRead = true)) ∧
    (addr < s.params.base ∨ s.params.base + 0x3000 ≤ addr →
      s.perform (.read addr width) = .next { s with resp := .notSelected } ∧
      s.perform (.write addr width w) = .next { s with resp := .notSelected })

/-- Host accesses to word j of BRi (R43, R19). A read of a stored word returns it and records UnwrittenRead exactly where the
word is unwritten (that it returns a value there is log entry 2's choice); a word at or above MAX_WORDS reads 0. A write to an
idle block stores a stored word and sets its written bit, and leaves every other byte and bit alone; it is ignored at or above
MAX_WORDS. A write to a busy block is dropped and sets WBUSY_P. -/
def Obligations.BigRegisterWordAccess : Prop :=
  ∀ (s : State) (i j : Nat) (w : Word), i < 16 → j < 128 →
    (j < s.params.maxWords →
      s.perform (s.readAt (wordOffset i j)) =
        .next { s with
          resp := .data (s.mem.readWord (wordOffset i j))
          unwrittenRead := s.unwrittenRead || !s.written i j } ∧
      (s.status.busy = false → ∃ t, s.perform (s.writeAt (wordOffset i j) w) = .next t ∧
        t = { s with resp := .written, mem := t.mem, writtenBits := t.writtenBits } ∧
        t.written i j = true ∧ t.mem.readWord (wordOffset i j) = w ∧
        (∀ a, a < wordOffset i j ∨ wordOffset i j + 4 ≤ a → t.mem.read a = s.mem.read a) ∧
        ∀ k < 16, ∀ l < 128, (k ≠ i ∨ l ≠ j) → t.written k l = s.written k l)) ∧
    (s.params.maxWords ≤ j →
      s.perform (s.readAt (wordOffset i j)) = .next { s with resp := .data 0 } ∧
      (s.status.busy = false → s.perform (s.writeAt (wordOffset i j) w) = .next { s with resp := .written })) ∧
    (s.status.busy = true → s.perform (s.writeAt (wordOffset i j) w) =
      .next { s with resp := .written, irq := { s.irq with wbusyP := true } })

/-- R44: a big register is the little-endian sum of its words. -/
def Obligations.BigRegisterIsSumOfWords : Prop :=
  ∀ (s : State) (i : Nat),
    s.readBr i =
      ((List.range s.params.maxWords).map fun j => (s.mem.readWord (wordOffset i j)).toNat * 2 ^ (32 * j)).sum

/-- R34: while BUSY = 1, writes to CMD, BITSIZE, ATTEMPT_CAP and every big-register word change nothing but WBUSY_P;
writes to ID, PARAM, STATUS, the counters and offsets with no register change nothing; writes to CTRL and IRQ act as in
an idle block; no read is dropped. -/
def Obligations.WritesWhileBusy : Prop :=
  ∀ (s : State) (w : Word) (off : Nat), s.status.busy = true → off < 0x3000 → off % 4 = 0 →
    ((off = 0x008 ∨ off = 0x014 ∨ off = 0x01C ∨ 0x1000 ≤ off) →
      s.perform (s.writeAt off w) = .next { s with resp := .written, irq := { s.irq with wbusyP := true } }) ∧
    ((off = 0x000 ∨ off = 0x004 ∨ off = 0x00C ∨ (0x020 ≤ off ∧ off < 0x1000)) →
      s.perform (s.writeAt off w) = .next { s with resp := .written }) ∧
    (off = 0x010 → w.getLsbD 1 = false →
      s.perform (s.writeAt off w) = .next { s with resp := .written, irqEn := w.getLsbD 0 }) ∧
    (off = 0x010 → w.getLsbD 1 = true →
      s.perform (s.writeAt off w) = .next { s.softReset with resp := .written }) ∧
    (off = 0x018 →
      s.perform (s.writeAt off w) =
        .next { s with resp := .written, irq := { doneP := s.irq.doneP && !w.getLsbD 0, wbusyP := s.irq.wbusyP && !w.getLsbD 1 } }) ∧
    ∃ t v, s.perform (s.readAt off) = .next t ∧ t.resp = .data v

/-- Writes to the registers of an idle block other than CMD: BITSIZE and ATTEMPT_CAP keep their fields, CTRL its enable
bit, IRQ is cleared bit by bit, the rest is ignored; and reads of the read-write registers return what was kept, reserved
bits as 0 (R23, R24, R29, R30, R31, R32). -/
def Obligations.RegisterWritesWhileIdle : Prop :=
  ∀ (s : State) (w : Word), s.status.busy = false →
    s.perform (s.writeAt 0x014 w) = .next { s with resp := .written, bitsize := BitVec.ofNat 16 w.toNat } ∧
    s.perform (s.writeAt 0x01C w) =
      .next { s with
        resp := .written
        candCap := BitVec.ofNat 16 w.toNat
        restartCap := BitVec.ofNat 16 (w.toNat / 2 ^ 16) } ∧
    (w.getLsbD 1 = false → s.perform (s.writeAt 0x010 w) = .next { s with resp := .written, irqEn := w.getLsbD 0 }) ∧
    s.perform (s.writeAt 0x018 w) =
      .next { s with
        resp := .written
        irq := { doneP := s.irq.doneP && !w.getLsbD 0, wbusyP := s.irq.wbusyP && !w.getLsbD 1 } } ∧
    (∀ off, (off = 0x000 ∨ off = 0x004 ∨ off = 0x00C ∨ (0x020 ≤ off ∧ off < 0x1000)) → off % 4 = 0 →
      s.perform (s.writeAt off w) = .next { s with resp := .written }) ∧
    s.perform (s.readAt 0x014) = .next { s with resp := .data (s.bitsize.setWidth 32) } ∧
    s.perform (s.readAt 0x01C) = .next { s with resp := .data (s.restartCap ++ s.candCap) } ∧
    s.perform (s.readAt 0x010) = .next { s with resp := .data (if s.irqEn then 1 else 0) }

/-- What a host reads at every CSR, busy or not and at every width: ID, PARAM, CMD, STATUS with the values of ERRCODE and STATE
written out, CTRL, BITSIZE, IRQ, ATTEMPT_CAP and the counters, reserved bits as 0; and 0 at every offset with no register
(R21, R24 to R33, R42, R115). -/
def Obligations.RegisterReads : Prop :=
  ∀ s : State,
    s.perform (s.readAt 0x000) = .next { s with resp := .data 0x4D525443 } ∧
    (∃ v : Word, s.perform (s.readAt 0x004) = .next { s with resp := .data v } ∧
      v.extractLsb' 0 8 = BitVec.ofNat 8 s.params.maxWords ∧ v.extractLsb' 8 4 = 5#4 ∧ v.extractLsb' 12 4 = 0#4 ∧
      v.extractLsb' 16 16 = 16#16) ∧
    s.perform (s.readAt 0x008) = .next { s with resp := .data s.cmd } ∧
    (∃ v : Word, s.perform (s.readAt 0x00C) = .next { s with resp := .data v } ∧
      v.getLsbD 0 = s.status.busy ∧ v.getLsbD 1 = s.status.done ∧ v.getLsbD 2 = s.status.err ∧
      v.getLsbD 3 = s.status.result ∧ v.extractLsb' 4 4 = 0#4 ∧
      v.extractLsb' 8 4 = (match s.status.errCode with
        | .noError => 0#4
        | .illegalCmd => 1#4
        | .domain => 2#4
        | .notCoprime => 3#4
        | .overflow => 4#4
        | .attemptCap => 5#4) ∧
      v.extractLsb' 12 4 = 0#4 ∧
      v.extractLsb' 16 3 = (match s.status.state with
        | .idle => 0#3
        | .exec => 1#3
        | .searchingPrimes => 2#3
        | .computingModulus => 3#3
        | .validatingExponent => 4#3
        | .computingPrivateExponent => 5#3
        | .done => 6#3) ∧
      v.extractLsb' 19 13 = 0#13) ∧
    s.perform (s.readAt 0x010) = .next { s with resp := .data (if s.irqEn then 1 else 0) } ∧
    s.perform (s.readAt 0x014) = .next { s with resp := .data (s.bitsize.setWidth 32) } ∧
    (∃ v : Word, s.perform (s.readAt 0x018) = .next { s with resp := .data v } ∧
      v.getLsbD 0 = s.irq.doneP ∧ v.getLsbD 1 = s.irq.wbusyP ∧ v.extractLsb' 2 30 = 0#30) ∧
    s.perform (s.readAt 0x01C) = .next { s with resp := .data (s.restartCap ++ s.candCap) } ∧
    s.perform (s.readAt 0x020) = .next { s with resp := .data s.cntPg0 } ∧
    s.perform (s.readAt 0x024) = .next { s with resp := .data s.cntPg1 } ∧
    s.perform (s.readAt 0x028) = .next { s with resp := .data s.cntRestart } ∧
    ∀ off, 0x02C ≤ off → off < 0x1000 → off % 4 = 0 → s.perform (s.readAt off) = .next { s with resp := .data 0 }

/-! ### Resets and the interrupt -/

/-- R130: a write to CTRL with bit 1 = 1, busy or not, ends any command with no completion, clears every CSR, discards
everything hidden and leaves the big registers and their written bits. That discarded hidden state is stored as zeros is
the model's choice (log entry 3). The record of an unwritten read and the queues outside the block are the model's own fields
(log entries 2, 4 to 6). -/
def Obligations.SoftResetEffect : Prop :=
  ∀ (s : State) (w : Word), w.getLsbD 1 = true →
    ∃ t, s.perform (s.writeAt 0x010 w) = .next t ∧
      t = { State.reset with
        params := s.params
        mem := s.mem
        writtenBits := s.writtenBits
        unwrittenRead := s.unwrittenRead
        bus := s.bus
        turns := s.turns
        schedTaken := s.schedTaken
        rng0 := s.rng0
        rng1 := s.rng1
        resp := .written } ∧
      t.irqLine = false

/-- R129: the hardware reset ends any command with no completion, clears every CSR and every written bit and discards
everything hidden; the block is IDLE. The record of an unwritten read and the queues outside the block are not the block's
(log entries 2, 4 to 6). That the big registers then hold 0, and that discarded hidden state is stored as zeros, is the
model's choice (log entries 2 and 3). -/
def Obligations.HardResetEffect : Prop :=
  ∀ s : State,
    ∃ t, s.perform .hardReset = .next t ∧
      t = { State.reset with
        params := s.params
        unwrittenRead := s.unwrittenRead
        bus := s.bus
        turns := s.turns
        schedTaken := s.schedTaken
        rng0 := s.rng0
        rng1 := s.rng1 } ∧
      t.irqLine = false ∧ (∀ i j, t.written i j = false)

/-- R122: the line is IRQ_EN and (DONE_P or WBUSY_P), and once high it goes low only in a step that performs a host write
to CTRL or IRQ or a hardware reset; it is low after either reset; IRQ_EN masks the line, not the pending bits. -/
def Obligations.InterruptLineRule : Prop :=
  (∀ s : State, s.irqLine = (s.irqEn && (s.irq.doneP || s.irq.wbusyP))) ∧
  (∀ s t : State, step s = .next t → s.irqLine = true → t.irqLine = false →
    s.bus.head? = some .hardReset ∨ ∃ w, s.bus.head? = some (s.writeAt 0x010 w) ∨ s.bus.head? = some (s.writeAt 0x018 w)) ∧
  (∀ s : State, s.softReset.irqLine = false ∧ s.hardReset.irqLine = false) ∧
  (∀ (s : State) (w : Word), w.getLsbD 1 = false →
    ∃ t, s.perform (s.writeAt 0x010 w) = .next t ∧ t.irqEn = w.getLsbD 0 ∧ t.irq = s.irq)

/-- Each pending bit is cleared only by a write of 1 to it or by a reset (R121). -/
def Obligations.PendingBitsClearedOnly : Prop :=
  ∀ s t : State, step s = .next t →
    (s.irq.doneP = true → t.irq.doneP = false →
      s.bus.head? = some .hardReset ∨ (∃ w : Word, w.getLsbD 0 = true ∧ s.bus.head? = some (s.writeAt 0x018 w)) ∨
      ∃ w : Word, w.getLsbD 1 = true ∧ s.bus.head? = some (s.writeAt 0x010 w)) ∧
    (s.irq.wbusyP = true → t.irq.wbusyP = false →
      s.bus.head? = some .hardReset ∨ (∃ w : Word, w.getLsbD 1 = true ∧ s.bus.head? = some (s.writeAt 0x018 w)) ∨
      ∃ w : Word, w.getLsbD 1 = true ∧ s.bus.head? = some (s.writeAt 0x010 w))

/-- A step in which DONE goes from 0 to 1 sets DONE_P whatever IRQ_EN holds, so that the line follows IRQ_EN (R109, R117,
R121, R122). -/
def Obligations.CompletionSetsPending : Prop :=
  ∀ s t : State, step s = .next t → s.status.done = false → t.status.done = true →
    t.irq.doneP = true ∧ t.irqLine = t.irqEn

/-! ### The procedures -/

/-- R67: for m ≥ 1, ME(b, e, m) is b^e mod m, with b^0 = 1 for every b. -/
def Obligations.EngineComputesPower : Prop :=
  ∀ b e m : Nat, 1 ≤ m → modExp b e m = b ^ e % m

/-- R71: LCMF(a, b) = a * (b div STEIN(a, b)), an exact division, is the least common multiple, and 0 when an operand
is 0. -/
def Obligations.LcmfIsLcm : Prop :=
  ∀ a b : Nat, ¬(a = 0 ∧ b = 0) →
    lcmF a b = a * (b / stein a b) ∧ stein a b ∣ b ∧ lcmF a b = Nat.lcm a b ∧ (a = 0 ∨ b = 0 → lcmF a b = 0)

/-- MODINVF(a, m) for m ≥ 1: an Ok value is in [0, m) and is the inverse of a modulo m (0 for m = 1); NotCoprime reports
gcd(a, m), which is not 1; and it is Ok exactly when m = 1 or a is coprime to m (R72). -/
def Obligations.ModInverseIsInverse : Prop :=
  ∀ a m : Nat, 1 ≤ m →
    (∀ x, modInvF a m = .ok x → x < m ∧ (2 ≤ m → a * x % m = 1)) ∧
    (∀ g, modInvF a m = .notCoprime g → g = Nat.gcd a m ∧ g ≠ 1) ∧
    ((∃ x, modInvF a m = .ok x) ↔ Nat.gcd a m = 1)

/-- R83: SPLIT(n) returns (s, d) with n - 1 = 2^s * d and d odd. -/
def Obligations.SplitGivesOddPart : Prop :=
  ∀ n : Nat, 2 ≤ n → n - 1 = 2 ^ (split n).1 * (split n).2 ∧ (split n).2 % 2 = 1

/-- A round's verdict, said without the loop (R77). -/
def Obligations.RoundVerdict : Prop :=
  ∀ a d n : Nat, 5 ≤ n → (mrCore a d n = true ↔ RoundPasses a d n)

/-- A prime passes every round with every witness, d being the odd part of n - 1 (R80). With another d, which only MR_ROUND and
MR_ROUND_W can be given, the model follows R77 and a prime can fail (log entry 12). -/
def Obligations.PrimePassesEveryRound : Prop :=
  ∀ a n : Nat, 5 ≤ n → Nat.Prime n → 2 ≤ a → a ≤ n - 2 → mrCore a (split n).2 n = true

/-! ### The commands that run in one step -/

/-- MODEXP issues and then commits b^e mod m to rd, for every modulus that is not 0 (R67, R69, R106, R109). -/
def Obligations.ModexpResult : Prop :=
  ∀ (s : State) (rd rs1 rs2 rs3 b e m : Nat), s.status.busy = false →
    s.readBr rs1 = b → s.readBr rs2 = e → s.readBr rs3 = m → m ≠ 0 →
    ∃ t u, exec (.modexp rd rs1 rs2 rs3) s = .next t ∧ t.status = { s.status with busy := true, state := .exec } ∧
      exec (.modexp rd rs1 rs2 rs3) t = .next u ∧ u.readBr rd = b ^ e % m ∧
      u.status = { busy := false, done := true, err := false, result := false, errCode := .noError, state := .idle } ∧
      u.irq.doneP = true

/-- GCD issues and then commits the greatest common divisor to rd, for operands not both 0 (R70, R73). -/
def Obligations.GcdResult : Prop :=
  ∀ (s : State) (rd rs1 rs2 a b : Nat), s.status.busy = false →
    s.readBr rs1 = a → s.readBr rs2 = b → ¬(a = 0 ∧ b = 0) →
    ∃ t u, exec (.gcd rd rs1 rs2) s = .next t ∧ t.status = { s.status with busy := true, state := .exec } ∧
      exec (.gcd rd rs1 rs2) t = .next u ∧ u.readBr rd = Nat.gcd a b ∧
      u.status = { busy := false, done := true, err := false, result := false, errCode := .noError, state := .idle } ∧
      u.irq.doneP = true

/-- LCM issues and then commits the least common multiple to rd where it fits W bits, and ends with OVERFLOW, no big
register written, where it does not (R71, R74). -/
def Obligations.LcmResult : Prop :=
  ∀ (s : State) (rd rs1 rs2 a b : Nat), s.status.busy = false →
    s.readBr rs1 = a → s.readBr rs2 = b → ¬(a = 0 ∧ b = 0) →
    ∃ t u, exec (.lcm rd rs1 rs2) s = .next t ∧ t.status = { s.status with busy := true, state := .exec } ∧
      exec (.lcm rd rs1 rs2) t = .next u ∧ u.irq.doneP = true ∧
      (Nat.lcm a b < 2 ^ s.params.maxBits →
        u.readBr rd = Nat.lcm a b ∧
        u.status = { busy := false, done := true, err := false, result := false, errCode := .noError, state := .idle }) ∧
      (2 ^ s.params.maxBits ≤ Nat.lcm a b →
        u.mem = s.mem ∧
        u.status = { busy := false, done := true, err := true, result := false, errCode := .overflow, state := .idle })

/-- MODINV issues and then commits the inverse of a modulo m to rd where gcd(a, m) = 1 (m = 1 included, whose result is 0),
and ends with NOT_COPRIME, no big register written, where it is not (R72, R75). -/
def Obligations.ModinvResult : Prop :=
  ∀ (s : State) (rd rs1 rs2 a m : Nat), s.status.busy = false →
    s.readBr rs1 = a → s.readBr rs2 = m → m ≠ 0 →
    ∃ t u, exec (.modinv rd rs1 rs2) s = .next t ∧ t.status = { s.status with busy := true, state := .exec } ∧
      exec (.modinv rd rs1 rs2) t = .next u ∧ u.irq.doneP = true ∧
      (Nat.gcd a m = 1 →
        (∃ x, u.readBr rd = x ∧ x < m ∧ (2 ≤ m → a * x % m = 1)) ∧
        u.status = { busy := false, done := true, err := false, result := false, errCode := .noError, state := .idle }) ∧
      (Nat.gcd a m ≠ 1 →
        u.mem = s.mem ∧
        u.status = { busy := false, done := true, err := true, result := false, errCode := .notCoprime, state := .idle })

/-- MR_ROUND issues and then commits the verdict of one round with some witness of [2, n-2], whatever RNG0 answers,
taking one answer of it (R13, R76, R81). The queue of answers is the model's own field (log entry 4). -/
def Obligations.MrRoundResult : Prop :=
  ∀ (s : State) (rd rs1 rs2 d n : Nat), s.status.busy = false →
    s.readBr rs1 = d → s.readBr rs2 = n → 5 ≤ n →
    ∃ t u a, exec (.mrRound rd rs1 rs2) s = .next t ∧ t.status = { s.status with busy := true, state := .exec } ∧
      exec (.mrRound rd rs1 rs2) t = .next u ∧ 2 ≤ a ∧ a ≤ n - 2 ∧
      u.readBr rd = (if mrCore a d n then 1 else 0) ∧
      u.status = { busy := false, done := true, err := false, result := mrCore a d n, errCode := .noError, state := .idle } ∧
      u.irq.doneP = true ∧
      (s.rng0.answers = [] → u.rng0 = { answers := [], taken := s.rng0.taken + 1 }) ∧
      (∀ v rest, s.rng0.answers = v :: rest → u.rng0 = { s.rng0 with answers := rest } ∧ (2 ≤ v → v ≤ n - 2 → a = v))

/-- MR_ROUND_W issues and then commits the verdict of one round with the witness given, taking no draw (R76, R82). -/
def Obligations.MrRoundWResult : Prop :=
  ∀ (s : State) (rd rs1 rs2 rs3 d n a : Nat), s.status.busy = false →
    s.readBr rs1 = d → s.readBr rs2 = n → s.readBr rs3 = a → 5 ≤ n → 2 ≤ a → a ≤ n - 2 →
    ∃ t u, exec (.mrRoundW rd rs1 rs2 rs3) s = .next t ∧ t.status = { s.status with busy := true, state := .exec } ∧
      exec (.mrRoundW rd rs1 rs2 rs3) t = .next u ∧ u.readBr rd = (if mrCore a d n then 1 else 0) ∧
      u.status = { busy := false, done := true, err := false, result := mrCore a d n, errCode := .noError, state := .idle } ∧
      u.irq.doneP = true ∧ u.rng0 = s.rng0 ∧ u.rng1 = s.rng1

/-- IS_PRIME issues and then commits a verdict for every n: 0 for 0, 1 and 4, 1 for 2 and 3, with no draw. From 5 on its
witnesses are the answers RNG0 gives to draws from [2, n-2], in order, a fresh one each round: the verdict is 1 where the
first five all passed, and five were taken; it is 0 where k of them passed, k below 5, and the next did not, and k + 1 were
taken: the driver stops at the first Composite (R76, R84, R85). The queue of answers is the model's own field (log entry 4). -/
def Obligations.IsPrimeResult : Prop :=
  ∀ (s : State) (rd rs1 n : Nat), s.status.busy = false → s.readBr rs1 = n →
    ∃ t u v, exec (.isPrime rd rs1) s = .next t ∧ t.status = { s.status with busy := true, state := .exec } ∧
      exec (.isPrime rd rs1) t = .next u ∧ u.readBr rd = (if v then 1 else 0) ∧
      u.status = { busy := false, done := true, err := false, result := v, errCode := .noError, state := .idle } ∧
      u.irq.doneP = true ∧ u.rng1 = s.rng1 ∧
      (n ≤ 1 ∨ n = 4 → v = false ∧ u.rng0 = s.rng0) ∧
      (n = 2 ∨ n = 3 → v = true ∧ u.rng0 = s.rng0) ∧
      (5 ≤ n → ∀ a ∈ (s.rng0.drawList .u0 2 (n - 2) 5).1, 2 ≤ a ∧ a ≤ n - 2) ∧
      (5 ≤ n → v = true →
        (∀ a ∈ (s.rng0.drawList .u0 2 (n - 2) 5).1, mrCore a (split n).2 n = true) ∧
        u.rng0 = (s.rng0.drawList .u0 2 (n - 2) 5).2) ∧
      (5 ≤ n → v = false → ∃ k < 5,
        (∀ a ∈ (s.rng0.drawList .u0 2 (n - 2) k).1, mrCore a (split n).2 n = true) ∧
        mrCore ((s.rng0.drawList .u0 2 (n - 2) k).2.draw .u0 2 (n - 2)).1 (split n).2 n = false ∧
        u.rng0 = (s.rng0.drawList .u0 2 (n - 2) (k + 1)).2)

/-- IS_PRIME commits 1 for every prime, whatever RNG0 answers (R80, R85). -/
def Obligations.IsPrimeAcceptsEveryPrime : Prop :=
  ∀ (s : State) (rd rs1 n : Nat), s.status.busy = false → s.readBr rs1 = n → Nat.Prime n →
    ∃ t u, exec (.isPrime rd rs1) s = .next t ∧ exec (.isPrime rd rs1) t = .next u ∧
      u.readBr rd = 1 ∧ u.status.result = true

/-- RSAEP issues and then commits m^e mod n to rd, for every m < n (R67, R104). -/
def Obligations.RsaepResult : Prop :=
  ∀ (s : State) (rd rs1 rs2 rs3 m e n : Nat), s.status.busy = false →
    s.readBr rs1 = m → s.readBr rs2 = e → s.readBr rs3 = n → m < n →
    ∃ t u, exec (.rsaep rd rs1 rs2 rs3) s = .next t ∧ t.status = { s.status with busy := true, state := .exec } ∧
      exec (.rsaep rd rs1 rs2 rs3) t = .next u ∧ u.readBr rd = m ^ e % n ∧
      u.status = { busy := false, done := true, err := false, result := false, errCode := .noError, state := .idle } ∧
      u.irq.doneP = true

/-! ### The prime generator -/

/-- GEN_PRIME with a legal bit length issues and starts UNIT0's search; KEYGEN with a legal bit size issues, enters
SEARCHING_PRIMES and starts both units' searches for h = b / 2 bits. Counters are 0, BITSIZE and ATTEMPT_CAP latched, no
big register changed (R91, R93, R94, R106, R107, R126). That a started search holds zeros as its candidate and result is the
model's choice (log entry 3). -/
def Obligations.SearchCommandsStart : Prop :=
  ∀ (s : State) (rd : Nat), s.status.busy = false → s.bitsize.toNat ≤ s.params.maxBits →
    (2 ≤ s.bitsize.toNat →
      ∃ t, exec (.genPrime rd) s = .next t ∧ t.status = { s.status with busy := true, state := .exec } ∧
        t.unit0.gen = { active := true, b := s.bitsize.toNat, c := 0, found := false, res := 0, fail := false } ∧
        t.unit1 = s.unit1 ∧ t.cntPg0 = 0 ∧ t.cntPg1 = 0 ∧ t.cntRestart = 0 ∧
        t.latch.bits = s.bitsize.toNat ∧ t.latch.candCap = s.candCap.toNat ∧ t.latch.restartCap = s.restartCap.toNat ∧
        t.mem = s.mem ∧ t.irq = s.irq) ∧
    (s.bitsize.toNat % 2 = 0 → 16 ≤ s.bitsize.toNat →
      ∃ t, exec .keygen s = .next t ∧ t.status = { s.status with busy := true, state := .searchingPrimes } ∧
        t.unit0.gen = { active := true, b := s.bitsize.toNat / 2, c := 0, found := false, res := 0, fail := false } ∧
        t.unit1.gen = { active := true, b := s.bitsize.toNat / 2, c := 0, found := false, res := 0, fail := false } ∧
        t.cntPg0 = 0 ∧ t.cntPg1 = 0 ∧ t.cntRestart = 0 ∧
        t.latch.bits = s.bitsize.toNat ∧ t.latch.candCap = s.candCap.toNat ∧ t.latch.restartCap = s.restartCap.toNat ∧
        t.mem = s.mem ∧ t.irq = s.irq)

/-- One step of a unit's search (R87). At the cap it reports Fail and nothing else changes; else it draws a candidate from RNGu
over [2^(b-1) + 1, 2^b - 1], counts it with saturation, tests it with the answers that follow, and reports it as found exactly
when it passes. The queue of answers is the model's own field (log entry 4). -/
def Obligations.CandidateStep : Prop :=
  ∀ (s : State) (u : UnitId), 2 ≤ (s.unit u).gen.b →
    (s.latch.candCap ≠ 0 ∧ (s.cntPg u).toNat = s.latch.candCap →
      s.searchStep u = s.setUnit u { s.unit u with gen := { (s.unit u).gen with fail := true } }) ∧
    (s.latch.candCap = 0 ∨ (s.cntPg u).toNat ≠ s.latch.candCap →
      ∃ c src, (c, src) = (s.rng u).draw u (2 ^ ((s.unit u).gen.b - 1) + 1) (2 ^ (s.unit u).gen.b - 1) ∧
        2 ^ ((s.unit u).gen.b - 1) + 1 ≤ c ∧ c ≤ 2 ^ (s.unit u).gen.b - 1 ∧
        ((s.searchStep u).cntPg u).toNat = min ((s.cntPg u).toNat + 1) 0xFFFFFFFF ∧
        ((s.searchStep u).unit u).gen =
          { (s.unit u).gen with
            c := c
            found := (primeTest u c src).verdict
            res := if (primeTest u c src).verdict then c else (s.unit u).gen.res } ∧
        (s.searchStep u).rng u = (primeTest u c src).src)

/-- GEN_PRIME's sequencer step: the prime UNIT0 found is committed to rd with RESULT 0; Fail ends the command with
ATTEMPT_CAP and writes no register; while neither is reported nothing changes (R92, R108). -/
def Obligations.GenPrimeEnds : Prop :=
  ∀ (s : State) (rd : Nat), s.status.busy = true →
    (s.unit0.gen.fail = false → s.unit0.gen.found = true → s.unit0.gen.res < 2 ^ s.params.maxBits →
      ∃ t, exec (.genPrime rd) s = .next t ∧ t.readBr rd = s.unit0.gen.res ∧
        t.status = { busy := false, done := true, err := false, result := false, errCode := .noError, state := .idle } ∧
        t.irq.doneP = true ∧ t.cntPg0 = s.cntPg0) ∧
    (s.unit0.gen.fail = true →
      ∃ t, exec (.genPrime rd) s = .next t ∧ t.mem = s.mem ∧
        t.status = { busy := false, done := true, err := true, result := false, errCode := .attemptCap, state := .idle } ∧
        t.irq.doneP = true ∧ t.cntPg0 = s.cntPg0) ∧
    (s.unit0.gen.fail = false → s.unit0.gen.found = false → exec (.genPrime rd) s = .next s)

/-- GEN_PRIME of two bits gives 3 after exactly one draw, whatever RNG0 answers: issue, one step of UNIT0, commit (R92).
The queue of answers is the model's own field (log entry 4). -/
def Obligations.GenPrimeOfTwoBits : Prop :=
  ∀ (s : State) (rd : Nat), s.status.busy = false → s.bitsize.toNat = 2 →
    ∃ t u, exec (.genPrime rd) s = .next t ∧ exec (.genPrime rd) (t.searchStep .u0) = .next u ∧
      u.readBr rd = 3 ∧ u.cntPg0 = 1 ∧ u.status.done = true ∧ u.status.err = false ∧
      (s.rng0.answers = [] → u.rng0 = { answers := [], taken := s.rng0.taken + 1 })

/-! ### KEYGEN -/

/-- The sequencer in SEARCHING_PRIMES: it holds until both units have Found or one has Fail; Fail ends the command with
ATTEMPT_CAP and stops both units; else p is UNIT0's prime and q UNIT1's, and both units stop (R94). That discarded
hidden state is stored as zeros is the model's choice (log entry 3). -/
def Obligations.KeygenJoinStep : Prop :=
  ∀ s : State, s.status.busy = true → s.status.state = .searchingPrimes →
    ((s.unit0.gen.fail = true ∨ s.unit1.gen.fail = true) →
      ∃ t, exec .keygen s = .next t ∧ t.mem = s.mem ∧ t.unit0 = .empty ∧ t.unit1 = .empty ∧
        t.status = { busy := false, done := true, err := true, result := false, errCode := .attemptCap, state := .idle }) ∧
    (s.unit0.gen.fail = false → s.unit1.gen.fail = false → s.unit0.gen.found = true → s.unit1.gen.found = true →
      ∃ t, exec .keygen s = .next t ∧ t.status = { s.status with state := .computingModulus } ∧
        t.seq.key.p = s.unit0.gen.res ∧ t.seq.key.q = s.unit1.gen.res ∧ t.unit0 = .empty ∧ t.unit1 = .empty ∧
        t.mem = s.mem) ∧
    (s.unit0.gen.fail = false → s.unit1.gen.fail = false → (s.unit0.gen.found = false ∨ s.unit1.gen.found = false) →
      exec .keygen s = .next s)

/-- R95: COMPUTING_MODULUS leaves n = p q and λ = lcm(p - 1, q - 1) and moves to VALIDATING_EXPONENT. In every state that
meets the invariants neither overflows W bits. -/
def Obligations.KeygenModulusStep : Prop :=
  ∀ s : State, s.ControlInv → s.KeyInv → s.status.state = .computingModulus →
    ∃ t, exec .keygen s = .next t ∧ t.status = { s.status with state := .validatingExponent } ∧
      t.seq.key = { s.seq.key with n := s.seq.key.p * s.seq.key.q, lam := Nat.lcm (s.seq.key.p - 1) (s.seq.key.q - 1) } ∧
      t.seq.key.n < 2 ^ s.latch.bits ∧ 2 ^ s.latch.bits ≤ 2 ^ s.params.maxBits ∧ t.seq.key.lam < t.seq.key.n ∧
      2 ^ (s.latch.bits / 2 - 1) ≤ s.seq.key.p - 1 ∧ 2 ^ (s.latch.bits / 2 - 1) ≤ s.seq.key.q - 1 ∧
      128 ≤ 2 ^ (s.latch.bits / 2 - 1)

/-- VALIDATING_EXPONENT: e becomes 65537; with gcd(65537, λ) = 1 the FSM moves on; else, at the restart cap, ATTEMPT_CAP;
else the back-edge: p, q, n and λ discarded, both searches started afresh, CNT_RESTART one higher and CNT_PG0, CNT_PG1 kept
(R96). That discarded values and the fields of a fresh search are stored as zeros is the model's choice (log entry 3). -/
def Obligations.KeygenValidateStep : Prop :=
  ∀ s : State, s.status.busy = true → s.status.state = .validatingExponent →
    (Nat.gcd 65537 s.seq.key.lam = 1 →
      ∃ t, exec .keygen s = .next t ∧ t.status = { s.status with state := .computingPrivateExponent } ∧
        t.seq.key = { s.seq.key with e := 65537 } ∧ t.cntRestart = s.cntRestart ∧ t.mem = s.mem) ∧
    (Nat.gcd 65537 s.seq.key.lam ≠ 1 → s.latch.restartCap ≠ 0 → s.cntRestart.toNat = s.latch.restartCap →
      ∃ t, exec .keygen s = .next t ∧ t.mem = s.mem ∧ t.cntRestart = s.cntRestart ∧
        t.status = { busy := false, done := true, err := true, result := false, errCode := .attemptCap, state := .idle }) ∧
    (Nat.gcd 65537 s.seq.key.lam ≠ 1 → (s.latch.restartCap = 0 ∨ s.cntRestart.toNat ≠ s.latch.restartCap) →
      ∃ t, exec .keygen s = .next t ∧ t.status = { s.status with state := .searchingPrimes } ∧
        t.cntRestart.toNat = min (s.cntRestart.toNat + 1) 0xFFFFFFFF ∧ t.cntPg0 = s.cntPg0 ∧ t.cntPg1 = s.cntPg1 ∧
        t.unit0 = .searching (s.latch.bits / 2) ∧ t.unit1 = .searching (s.latch.bits / 2) ∧
        t.seq.key = { s.seq.key with p := 0, q := 0, n := 0, lam := 0, e := 65537 } ∧ t.latch = s.latch ∧ t.mem = s.mem)

/-- The test of VALIDATING_EXPONENT fails exactly where 65537 divides p - 1 or q - 1, whether or not p and q are prime; for
prime p and q, no bit size up to 38 takes the back-edge (R97). That a composite which passed ISPRIME takes it at those sizes
as well is the model's choice between R96 and R97 (log entry 11). -/
def Obligations.SmallKeysTakeNoBackEdge : Prop :=
  ∀ s : State, s.ControlInv → s.KeyInv → s.status.state = .validatingExponent →
    (Nat.gcd 65537 s.seq.key.lam ≠ 1 ↔ 65537 ∣ s.seq.key.p - 1 ∨ 65537 ∣ s.seq.key.q - 1) ∧
    (s.latch.bits ≤ 38 → Nat.Prime s.seq.key.p → Nat.Prime s.seq.key.q →
      ∃ t, exec .keygen s = .next t ∧ t.status.state = .computingPrivateExponent)

/-- COMPUTING_PRIVATE_EXPONENT, in states that meet the invariants: with gcd(q, p) = 1 the private values satisfy their
equations and the FSM is DONE; else, p = q among the cases, the command ends with NOT_COPRIME and writes no register
(R98, R99). -/
def Obligations.KeygenPrivateStep : Prop :=
  ∀ s : State, s.ControlInv → s.KeyInv → s.status.state = .computingPrivateExponent →
    (Nat.gcd s.seq.key.q s.seq.key.p = 1 →
      ∃ t, exec .keygen s = .next t ∧ t.status = { s.status with state := .done } ∧
        t.seq.key.d * 65537 % s.seq.key.lam = 1 ∧ t.seq.key.d < s.seq.key.lam ∧
        t.seq.key.dP = t.seq.key.d % (s.seq.key.p - 1) ∧ t.seq.key.dQ = t.seq.key.d % (s.seq.key.q - 1) ∧
        t.seq.key.qInv * s.seq.key.q % s.seq.key.p = 1 ∧ t.seq.key.qInv < s.seq.key.p ∧
        t.seq.key.p = s.seq.key.p ∧ t.seq.key.q = s.seq.key.q ∧ t.seq.key.n = s.seq.key.n ∧ t.mem = s.mem) ∧
    (Nat.gcd s.seq.key.q s.seq.key.p ≠ 1 →
      ∃ t, exec .keygen s = .next t ∧ t.mem = s.mem ∧
        t.status = { busy := false, done := true, err := true, result := false, errCode := .notCoprime, state := .idle }) ∧
    (s.seq.key.p = s.seq.key.q → Nat.gcd s.seq.key.q s.seq.key.p ≠ 1)

/-- KEYGEN's commit, in states that meet the invariants: BR0 to BR8 hold a key that satisfies the source's invariants, p a
value that passed ISPRIME on UNIT0 and q one that passed it on UNIT1 (R100, R102). -/
def Obligations.KeygenCommitsValidKey : Prop :=
  ∀ s : State, s.ControlInv → s.KeyInv → s.status.state = .done →
    ∃ u n e d p q dP dQ qInv lam, exec .keygen s = .next u ∧
      u.readBr 0 = n ∧ u.readBr 1 = e ∧ u.readBr 2 = d ∧ u.readBr 3 = p ∧ u.readBr 4 = q ∧
      u.readBr 5 = dP ∧ u.readBr 6 = dQ ∧ u.readBr 7 = qInv ∧ u.readBr 8 = lam ∧
      n = p * q ∧ PassesTest .u0 p ∧ PassesTest .u1 q ∧ e = 65537 ∧
      lam = Nat.lcm (p - 1) (q - 1) ∧ d * e % lam = 1 ∧ d < lam ∧
      dP = d % (p - 1) ∧ dQ = d % (q - 1) ∧ qInv * q % p = 1 ∧ qInv < p ∧
      2 ^ (s.latch.bits / 2 - 1) < p ∧ p < 2 ^ (s.latch.bits / 2) ∧
      2 ^ (s.latch.bits / 2 - 1) < q ∧ q < 2 ^ (s.latch.bits / 2) ∧
      2 ^ (s.latch.bits - 2) < n ∧ n < 2 ^ s.latch.bits ∧
      u.status = { busy := false, done := true, err := false, result := false, errCode := .noError, state := .idle } ∧
      u.irq.doneP = true ∧ u.cntPg0 = s.cntPg0 ∧ u.cntPg1 = s.cntPg1 ∧ u.cntRestart = s.cntRestart

/-! ### Errors and stops -/

/-- A write of an illegal word to CMD of an idle block is accepted and completes at once with ILLEGAL_CMD: CMD holds the
word, nothing is latched, no counter or big register changes (R27, R60, R61, R106, R117). That discarded hidden state is
stored as zeros is the model's choice (log entry 3). -/
def Obligations.IllegalWordCompletes : Prop :=
  ∀ (s : State) (w : Word) (e : Reject), s.status.busy = false → decode w = .error e →
    ∃ t, s.perform (s.writeAt 0x008 w) = .next t ∧
      t = { s with
        resp := .written
        cmd := w
        status := { busy := false, done := true, err := true, result := false, errCode := .illegalCmd, state := .idle }
        irq := { s.irq with doneP := true }
        latch := .empty
        unit0 := .empty
        unit1 := .empty
        seq := .empty }

/-- The domain checks at issue, command by command: outside its domain a command completes in the issue step with DOMAIN, counters at 0, no big register written and BUSY
never 1 (R69, R73, R74, R75, R81, R82, R91, R93, R104,
R106). That discarded hidden state is stored as zeros, and the record unwrittenRead, are the model's choice (log entries 3
and 2). -/
def Obligations.DomainErrorsAtIssue : Prop :=
  ∀ s : State, s.status.busy = false →
    let refused : Instr → Prop := fun i => ∃ t, exec i s = .next t ∧
      t = { s with
        status := { busy := false, done := true, err := true, result := false, errCode := .domain, state := .idle }
        irq := { s.irq with doneP := true }
        cntPg0 := 0
        cntPg1 := 0
        cntRestart := 0
        latch := .empty
        unit0 := .empty
        unit1 := .empty
        seq := .empty
        unwrittenRead := t.unwrittenRead }
    (∀ rd rs1 rs2 rs3, s.readBr rs3 = 0 → refused (.modexp rd rs1 rs2 rs3)) ∧
    (∀ rd rs1 rs2, s.readBr rs1 = 0 → s.readBr rs2 = 0 → refused (.gcd rd rs1 rs2) ∧ refused (.lcm rd rs1 rs2)) ∧
    (∀ rd rs1 rs2, s.readBr rs2 = 0 → refused (.modinv rd rs1 rs2)) ∧
    (∀ rd rs1 rs2, s.readBr rs2 < 5 → refused (.mrRound rd rs1 rs2)) ∧
    (∀ rd rs1 rs2 rs3, (s.readBr rs2 < 5 ∨ s.readBr rs3 < 2 ∨ s.readBr rs2 - 2 < s.readBr rs3) →
      refused (.mrRoundW rd rs1 rs2 rs3)) ∧
    (∀ rd, (s.bitsize.toNat < 2 ∨ s.params.maxBits < s.bitsize.toNat) → refused (.genPrime rd)) ∧
    ((s.bitsize.toNat % 2 = 1 ∨ s.bitsize.toNat < 16 ∨ s.params.maxBits < s.bitsize.toNat) → refused .keygen) ∧
    (∀ rd rs1 rs2 rs3, s.readBr rs3 ≤ s.readBr rs1 → refused (.rsaep rd rs1 rs2 rs3))

/-- Which command can end with which error: ILLEGAL_CMD none, DOMAIN every one but IS_PRIME, NOT_COPRIME only MODINV and
KEYGEN, OVERFLOW only LCM, ATTEMPT_CAP only GEN_PRIME and KEYGEN (R8, R115). -/
def Obligations.ErrorsByCommand : Prop :=
  ∀ (i : Instr) (s t : State), s.status.errCode = .noError → exec i s = .next t →
    t.status.errCode ≠ .illegalCmd ∧
    (t.status.errCode = .domain → ∀ rd rs1, i ≠ .isPrime rd rs1) ∧
    (t.status.errCode = .notCoprime → i = .keygen ∨ ∃ rd rs1 rs2, i = .modinv rd rs1 rs2) ∧
    (t.status.errCode = .overflow → ∃ rd rs1 rs2, i = .lcm rd rs1 rs2) ∧
    (t.status.errCode = .attemptCap → i = .keygen ∨ ∃ rd, i = .genPrime rd)

/-- Errors are precise: whenever exec raises an error, no big register or written bit, BITSIZE, ATTEMPT_CAP or CTRL changes, the
counters of a running command keep their values, STATUS is that of an error completion, DONE_P is set and everything
hidden is discarded (R117). That discarded hidden state is stored as zeros is the model's choice (log entry 3). -/
def Obligations.ErrorsArePrecise : Prop :=
  ∀ (i : Instr) (s t : State), s.status.err = false → exec i s = .next t → t.status.err = true →
    t.mem = s.mem ∧ t.writtenBits = s.writtenBits ∧ t.bitsize = s.bitsize ∧ t.candCap = s.candCap ∧
    t.restartCap = s.restartCap ∧ t.irqEn = s.irqEn ∧ t.cmd = s.cmd ∧
    (s.status.busy = true → t.cntPg0 = s.cntPg0 ∧ t.cntPg1 = s.cntPg1 ∧ t.cntRestart = s.cntRestart) ∧
    t.status.errCode ≠ .noError ∧
    t.status = { busy := false, done := true, err := true, result := false, errCode := t.status.errCode, state := .idle } ∧
    t.irq.doneP = true ∧ t.irq.wbusyP = s.irq.wbusyP ∧
    t.latch = .empty ∧ t.unit0 = .empty ∧ t.unit1 = .empty ∧ t.seq = .empty

/-- Every command, in every state, answers a next state, and UnwrittenRead is recorded exactly at the issue of a command that
names a source register with an unwritten word; what was recorded stays (R19, R107). That the command then goes on is the
model's choice (log entry 2). -/
def Obligations.UnwrittenSourceIsRecorded : Prop :=
  ∀ (i : Instr) (s : State), ∃ t, exec i s = .next t ∧
    (t.unwrittenRead = true ↔ s.unwrittenRead = true ∨
      (s.status.busy = false ∧ ∃ k ∈ i.sourceRegs, ∃ j < s.params.maxWords, s.written k j = false))

/-- Every step answers a next state. UnwrittenRead is recorded only where the host's next access reads an unwritten
big-register word or issues a command that names a source register with one, and what was recorded stays; where the host has
the turn it is recorded there, and the state has no successor in the spec's sense; elsewhere, with nothing recorded before,
the step's state is that successor (R19, R110, R116). That the step answers a state all the same, and whose turn it is, are
the model's choices (log entries 2 and 6). -/
def Obligations.StepRecordsOnlyUnwrittenReads : Prop :=
  ∀ s : State, s.StatusInv →
    let meetsUnwritten : Prop :=
      (∃ i j, i < 16 ∧ j < s.params.maxWords ∧ s.bus.head? = some (s.readAt (wordOffset i j)) ∧ s.written i j = false) ∨
      (∃ w i, s.status.busy = false ∧ s.bus.head? = some (s.writeAt 0x008 w) ∧ decode w = .ok i ∧
        ∃ k ∈ i.sourceRegs, ∃ j < s.params.maxWords, s.written k j = false)
    ∃ t, step s = .next t ∧ (s.unwrittenRead = true → t.unwrittenRead = true) ∧
      (s.unwrittenRead = false → t.unwrittenRead = true → meetsUnwritten) ∧
      (meetsUnwritten → s.turns.head? = some .host → t.unwrittenRead = true ∧ ∀ u, ¬s.Successor u) ∧
      (s.unwrittenRead = false → ¬meetsUnwritten → s.Successor t)

/-! ### Frames -/

/-- What every command leaves unchanged in any of its sequencer steps: every byte outside the registers it writes at its
commit (rd, or BR0 to BR8 for KEYGEN), and every byte in its issue; every written bit but those of the words of the registers
a commit writes, all of which it sets, and the record of an unwritten read but at an issue; the CSRs the host owns, WBUSY_P, the counters but for
their zeroing at issue and KEYGEN's CNT_RESTART, the world outside, and the random sources of a command that draws nothing
in its own step (R18, R19, R107, R109). -/
def Obligations.CommandFrame : Prop :=
  ∀ (i : Instr) (s t : State), exec i s = .next t →
    (∀ a, (∀ k ∈ i.destRegs, a < brOffset k ∨ brOffset k + 4 * s.params.maxWords ≤ a) → t.mem.read a = s.mem.read a) ∧
    (s.status.busy = false → t.mem = s.mem) ∧
    (s.status.busy = false ∨ t.status.busy = true ∨ t.status.err = true → t.writtenBits = s.writtenBits) ∧
    (s.status.busy = true → t.status.busy = false → t.status.err = false → ∀ k < 16, ∀ l < 128,
      (t.written k l = true ↔ s.written k l = true ∨ (k ∈ i.destRegs ∧ l < s.params.maxWords))) ∧
    (s.status.busy = true → t.unwrittenRead = s.unwrittenRead) ∧
    t.params = s.params ∧ t.cmd = s.cmd ∧ t.irqEn = s.irqEn ∧ t.bitsize = s.bitsize ∧ t.candCap = s.candCap ∧
    t.restartCap = s.restartCap ∧ t.irq.wbusyP = s.irq.wbusyP ∧ t.bus = s.bus ∧ t.resp = s.resp ∧ t.turns = s.turns ∧
    t.schedTaken = s.schedTaken ∧ t.rng1 = s.rng1 ∧
    (s.status.busy = true → t.cntPg0 = s.cntPg0 ∧ t.cntPg1 = s.cntPg1 ∧ (i ≠ .keygen → t.cntRestart = s.cntRestart)) ∧
    (s.status.busy = false → t.cntPg0 = 0 ∧ t.cntPg1 = 0 ∧ t.cntRestart = 0) ∧
    ((∀ rd rs1 rs2, i ≠ .mrRound rd rs1 rs2) → (∀ rd rs1, i ≠ .isPrime rd rs1) → t.rng0 = s.rng0)

/-- What a unit's search step leaves unchanged: everything but the unit's own state, its counter and its random source;
so the two units' steps come to the same in either order (R9, R37, R50, R94). What each answer is belongs to the model's
own fields (log entry 4). -/
def Obligations.UnitsShareNothing : Prop :=
  (∀ (s : State) (u : UnitId),
    s.searchStep u =
      ((({ s with cntPg0 := (s.searchStep u).cntPg0, cntPg1 := (s.searchStep u).cntPg1 } : State).setRng u
        ((s.searchStep u).rng u)).setUnit u ((s.searchStep u).unit u)) ∧
    ∀ v, v ≠ u → (s.searchStep u).cntPg v = s.cntPg v) ∧
  ∀ s : State, (s.searchStep .u0).searchStep .u1 = (s.searchStep .u1).searchStep .u0

/-- The three ways a byte of a big register changes: a hardware reset, a host write to its word of an idle block, and the
commit of the command in CMD, to a register that command writes; and the same three are the ways a written bit changes: the
reset clears it, the other two set it (R17, R18, R19). -/
def Obligations.BigRegistersChangeOnly : Prop :=
  ∀ s t : State, step s = .next t →
    let committed : Nat → Prop := fun k =>
      s.status.busy = true ∧ t.status.busy = false ∧ t.status.done = true ∧ t.status.err = false ∧
      ∃ i, decode s.cmd = .ok i ∧ k ∈ i.destRegs
    (∀ a, t.mem.read a ≠ s.mem.read a →
      s.bus.head? = some .hardReset ∨
      (s.status.busy = false ∧ ∃ i j w, i < 16 ∧ j < s.params.maxWords ∧ s.bus.head? = some (s.writeAt (wordOffset i j) w) ∧
        wordOffset i j ≤ a ∧ a < wordOffset i j + 4) ∨
      ∃ k, committed k ∧ brOffset k ≤ a ∧ a < brOffset k + s.brBytes) ∧
    (∀ k < 16, ∀ l < 128, t.written k l ≠ s.written k l →
      (s.bus.head? = some .hardReset ∧ t.written k l = false) ∨
      (s.status.busy = false ∧ l < s.params.maxWords ∧ (∃ w, s.bus.head? = some (s.writeAt (wordOffset k l) w)) ∧
        t.written k l = true) ∨
      (committed k ∧ l < s.params.maxWords ∧ t.written k l = true))

/-- STATUS.STATE moves only as 10_state.md R21 and 44_keypair_fsm.md R101 say; COMPUTING_MODULUS goes back to IDLE only by a
reset. -/
def Obligations.StateTransitions : Prop :=
  ∀ s t : State, s.ControlInv → step s = .next t →
    t.status.state = s.status.state ∨
    (t.status.state = .idle ∧ (s.status.state = .computingModulus → t.status = .reset)) ∨
    (s.status.state = .idle ∧ t.status.state = .exec) ∨
    (s.status.state = .idle ∧ t.status.state = .searchingPrimes) ∨
    (s.status.state = .searchingPrimes ∧ t.status.state = .computingModulus) ∨
    (s.status.state = .computingModulus ∧ t.status.state = .validatingExponent) ∨
    (s.status.state = .validatingExponent ∧ t.status.state = .computingPrivateExponent) ∨
    (s.status.state = .validatingExponent ∧ t.status.state = .searchingPrimes) ∨
    (s.status.state = .computingPrivateExponent ∧ t.status.state = .done)

/-! ### Invariants -/

/-- The state after reset meets every invariant, at every width and base. That the big registers hold 0 and discarded hidden
state is stored as zeros is the model's choice (log entries 2 and 3). -/
def Obligations.ResetMeetsInvariants : Prop :=
  ∀ p : Params,
    ({ State.reset with params := p } : State).StatusInv ∧ ({ State.reset with params := p } : State).MemInv ∧
    ({ State.reset with params := p } : State).ControlInv ∧ ({ State.reset with params := p } : State).KeyInv ∧
    ({ State.reset with params := p } : State).CapInv

/-- Every step keeps BUSY equivalent to STATE ≠ IDLE, ERR to ERRCODE ≠ 0, and DONE apart from BUSY (R28). -/
def Obligations.StatusInvKept : Prop :=
  ∀ s t : State, s.StatusInv → step s = .next t → t.StatusInv

/-- Every step keeps the window's bytes in canonical form, listed only in written words, and keeps the written words among
those that hold bits (R19, R43). That an unlisted byte reads 0 is the model's choice (log entry 2). -/
def Obligations.MemInvKept : Prop :=
  ∀ s t : State, s.MemInv → step s = .next t → t.MemInv

/-- Every step keeps the control invariant: what CMD, STATE, the latch and the units have to do with each other. That
discarded hidden state is stored as zeros is the model's choice (log entry 3). -/
def Obligations.ControlInvKept : Prop :=
  ∀ s t : State, s.ControlInv → step s = .next t → t.ControlInv

/-- Every step keeps what KEYGEN has established state by state: p and q candidates of b / 2 bits that passed ISPRIME, then
the equations of n and λ, of e, and of the private values (R94 to R98, R102). -/
def Obligations.KeyInvKept : Prop :=
  ∀ s t : State, s.ControlInv → s.KeyInv → step s = .next t → t.KeyInv

/-- Every step keeps the counters of a capped command within its caps (R134). -/
def Obligations.CapInvKept : Prop :=
  ∀ s t : State, s.CapInv → step s = .next t → t.CapInv
end

