-- ==== Sys2Proof/Laws/Codec.lean ====
section
/-! SUPPORT. The fields of an encoded word, and the opcode map read both ways. -/

namespace Sys2Proof

/-- The opcode map finds every assigned opcode by its value (30_encoding.md R59). -/
@[simp] theorem opcodeOf_code (o : Opcode) : opcodeOf o.code = some o := by cases o <;> rfl

/-- What the opcode map finds has the value looked for. -/
theorem code_of_opcodeOf {n : Nat} {o : Opcode} (h : opcodeOf n = some o) : o.code = n := by
  have := List.find?_some h
  simpa using this

theorem Opcode.code_lt (o : Opcode) : o.code < 256 := by cases o <;> decide

/-- A word put together from an opcode and four 4-bit fields. -/
def assemble (opc rd rs1 rs2 rs3 : Nat) : Word :=
  BitVec.ofNat 32 (opc + rd * 2 ^ 8 + rs1 * 2 ^ 12 + rs2 * 2 ^ 16 + rs3 * 2 ^ 20)

/-- The fields of a word put together are those it was put together from (30_encoding.md R56). -/
theorem field_assemble {opc rd rs1 rs2 rs3 : Nat} (ho : opc < 256) (hd : rd < 16) (h1 : rs1 < 16) (h2 : rs2 < 16)
    (h3 : rs3 < 16) :
    field (assemble opc rd rs1 rs2 rs3) 0 8 = opc ∧ field (assemble opc rd rs1 rs2 rs3) 8 4 = rd ∧
    field (assemble opc rd rs1 rs2 rs3) 12 4 = rs1 ∧ field (assemble opc rd rs1 rs2 rs3) 16 4 = rs2 ∧
    field (assemble opc rd rs1 rs2 rs3) 20 4 = rs3 ∧ field (assemble opc rd rs1 rs2 rs3) 24 8 = 0 := by
  simp only [field, assemble, BitVec.toNat_ofNat]
  omega

/-- An encoded command is its opcode and its indexes put together, an unused field being 0. -/
theorem encode_eq_assemble (i : Instr) :
    encode i = assemble i.opcode.code (i.indexes.getD 0 0) (i.indexes.getD 1 0) (i.indexes.getD 2 0)
      (i.indexes.getD 3 0) := rfl

/-- Every index of a well-formed command, or the 0 of an unused field, fits four bits. -/
theorem Instr.WellFormed.getD_lt {i : Instr} (h : i.WellFormed) (n : Nat) : i.indexes.getD n 0 < 16 := by
  rw [List.getD_eq_getElem?_getD]
  cases hn : i.indexes[n]? with
  | none => simp
  | some k => exact h k (List.mem_of_getElem? hn)

/-- A word is determined by its six fields. -/
theorem eq_assemble_of_fields {w : Word} {opc rd rs1 rs2 rs3 : Nat} (ho : field w 0 8 = opc) (hd : field w 8 4 = rd)
    (h1 : field w 12 4 = rs1) (h2 : field w 16 4 = rs2) (h3 : field w 20 4 = rs3) (hr : field w 24 8 = 0) :
    w = assemble opc rd rs1 rs2 rs3 := by
  apply BitVec.eq_of_toNat_eq
  have := w.isLt
  simp only [field, assemble, BitVec.toNat_ofNat] at *
  omega

/-- A word whose opcode is assigned and whose RSV and unused fields are 0 decodes to the command its fields make
(30_encoding.md R62). -/
theorem decode_of_fields {w : Word} {o : Opcode} (h0 : field w 0 8 = o.code) (hr : field w 24 8 = 0)
    (h3 : o.format.usesRs3 = false → field w 20 4 = 0) (h2 : o.format.usesRs2 = false → field w 16 4 = 0)
    (h1 : o.format.usesRs1 = false → field w 12 4 = 0) (hd : o.format.usesRd = false → field w 8 4 = 0) :
    decode w = .ok (o.instr (field w 8 4) (field w 12 4) (field w 16 4) (field w 20 4)) := by
  unfold decode
  rw [h0, opcodeOf_code]
  dsimp only
  rw [if_neg (by simp [hr]), if_neg (fun h => h.2 (h3 h.1)), if_neg (fun h => h.2 (h2 h.1)),
    if_neg (fun h => h.2 (h1 h.1)), if_neg (fun h => h.2 (hd h.1))]

/-- Everything the decoder has checked of a word it decodes (30_encoding.md R62). -/
theorem fields_of_decode {w : Word} {i : Instr} (h : decode w = .ok i) :
    ∃ o : Opcode, field w 0 8 = o.code ∧ field w 24 8 = 0 ∧ (o.format.usesRs3 = false → field w 20 4 = 0) ∧
      (o.format.usesRs2 = false → field w 16 4 = 0) ∧ (o.format.usesRs1 = false → field w 12 4 = 0) ∧
      (o.format.usesRd = false → field w 8 4 = 0) ∧
      i = o.instr (field w 8 4) (field w 12 4) (field w 16 4) (field w 20 4) := by
  unfold decode at h
  split at h
  · simp at h
  · next o ho =>
    split_ifs at h with a b c d e
    simp only [Except.ok.injEq] at h
    exact ⟨o, (code_of_opcodeOf ho).symm, by simpa using a, fun x => by simpa [x] using b, fun x => by simpa [x] using c,
      fun x => by simpa [x] using d, fun x => by simpa [x] using e, h.symm⟩

end Sys2Proof
end

