-- ==== Sys2Proof/Laws/State.lean ====
section
/-! SUPPORT. One lemma per field per update of State, so that no proof unfolds a record update; then the updates that
take a unit's name. -/

namespace Sys2Proof.Machine

/-! ### zeroCounters -/

@[simp] theorem State.zeroCounters_params (s : State) : s.zeroCounters.params = s.params := rfl
@[simp] theorem State.zeroCounters_mem (s : State) : s.zeroCounters.mem = s.mem := rfl
@[simp] theorem State.zeroCounters_writtenBits (s : State) : s.zeroCounters.writtenBits = s.writtenBits := rfl
@[simp] theorem State.zeroCounters_cmd (s : State) : s.zeroCounters.cmd = s.cmd := rfl
@[simp] theorem State.zeroCounters_status (s : State) : s.zeroCounters.status = s.status := rfl
@[simp] theorem State.zeroCounters_irqEn (s : State) : s.zeroCounters.irqEn = s.irqEn := rfl
@[simp] theorem State.zeroCounters_bitsize (s : State) : s.zeroCounters.bitsize = s.bitsize := rfl
@[simp] theorem State.zeroCounters_irq (s : State) : s.zeroCounters.irq = s.irq := rfl
@[simp] theorem State.zeroCounters_candCap (s : State) : s.zeroCounters.candCap = s.candCap := rfl
@[simp] theorem State.zeroCounters_restartCap (s : State) : s.zeroCounters.restartCap = s.restartCap := rfl
@[simp] theorem State.zeroCounters_cntPg0 (s : State) : s.zeroCounters.cntPg0 = 0 := rfl
@[simp] theorem State.zeroCounters_cntPg1 (s : State) : s.zeroCounters.cntPg1 = 0 := rfl
@[simp] theorem State.zeroCounters_cntRestart (s : State) : s.zeroCounters.cntRestart = 0 := rfl
@[simp] theorem State.zeroCounters_latch (s : State) : s.zeroCounters.latch = s.latch := rfl
@[simp] theorem State.zeroCounters_unit0 (s : State) : s.zeroCounters.unit0 = s.unit0 := rfl
@[simp] theorem State.zeroCounters_unit1 (s : State) : s.zeroCounters.unit1 = s.unit1 := rfl
@[simp] theorem State.zeroCounters_seq (s : State) : s.zeroCounters.seq = s.seq := rfl
@[simp] theorem State.zeroCounters_unwrittenRead (s : State) : s.zeroCounters.unwrittenRead = s.unwrittenRead := rfl
@[simp] theorem State.zeroCounters_bus (s : State) : s.zeroCounters.bus = s.bus := rfl
@[simp] theorem State.zeroCounters_resp (s : State) : s.zeroCounters.resp = s.resp := rfl
@[simp] theorem State.zeroCounters_turns (s : State) : s.zeroCounters.turns = s.turns := rfl
@[simp] theorem State.zeroCounters_schedTaken (s : State) : s.zeroCounters.schedTaken = s.schedTaken := rfl
@[simp] theorem State.zeroCounters_rng0 (s : State) : s.zeroCounters.rng0 = s.rng0 := rfl
@[simp] theorem State.zeroCounters_rng1 (s : State) : s.zeroCounters.rng1 = s.rng1 := rfl

/-! ### stopUnits -/

@[simp] theorem State.stopUnits_params (s : State) : s.stopUnits.params = s.params := rfl
@[simp] theorem State.stopUnits_mem (s : State) : s.stopUnits.mem = s.mem := rfl
@[simp] theorem State.stopUnits_writtenBits (s : State) : s.stopUnits.writtenBits = s.writtenBits := rfl
@[simp] theorem State.stopUnits_cmd (s : State) : s.stopUnits.cmd = s.cmd := rfl
@[simp] theorem State.stopUnits_status (s : State) : s.stopUnits.status = s.status := rfl
@[simp] theorem State.stopUnits_irqEn (s : State) : s.stopUnits.irqEn = s.irqEn := rfl
@[simp] theorem State.stopUnits_bitsize (s : State) : s.stopUnits.bitsize = s.bitsize := rfl
@[simp] theorem State.stopUnits_irq (s : State) : s.stopUnits.irq = s.irq := rfl
@[simp] theorem State.stopUnits_candCap (s : State) : s.stopUnits.candCap = s.candCap := rfl
@[simp] theorem State.stopUnits_restartCap (s : State) : s.stopUnits.restartCap = s.restartCap := rfl
@[simp] theorem State.stopUnits_cntPg0 (s : State) : s.stopUnits.cntPg0 = s.cntPg0 := rfl
@[simp] theorem State.stopUnits_cntPg1 (s : State) : s.stopUnits.cntPg1 = s.cntPg1 := rfl
@[simp] theorem State.stopUnits_cntRestart (s : State) : s.stopUnits.cntRestart = s.cntRestart := rfl
@[simp] theorem State.stopUnits_latch (s : State) : s.stopUnits.latch = s.latch := rfl
@[simp] theorem State.stopUnits_unit0 (s : State) : s.stopUnits.unit0 = UnitState.empty := rfl
@[simp] theorem State.stopUnits_unit1 (s : State) : s.stopUnits.unit1 = UnitState.empty := rfl
@[simp] theorem State.stopUnits_seq (s : State) : s.stopUnits.seq = s.seq := rfl
@[simp] theorem State.stopUnits_unwrittenRead (s : State) : s.stopUnits.unwrittenRead = s.unwrittenRead := rfl
@[simp] theorem State.stopUnits_bus (s : State) : s.stopUnits.bus = s.bus := rfl
@[simp] theorem State.stopUnits_resp (s : State) : s.stopUnits.resp = s.resp := rfl
@[simp] theorem State.stopUnits_turns (s : State) : s.stopUnits.turns = s.turns := rfl
@[simp] theorem State.stopUnits_schedTaken (s : State) : s.stopUnits.schedTaken = s.schedTaken := rfl
@[simp] theorem State.stopUnits_rng0 (s : State) : s.stopUnits.rng0 = s.rng0 := rfl
@[simp] theorem State.stopUnits_rng1 (s : State) : s.stopUnits.rng1 = s.rng1 := rfl

/-! ### discardHidden -/

@[simp] theorem State.discardHidden_params (s : State) : s.discardHidden.params = s.params := rfl
@[simp] theorem State.discardHidden_mem (s : State) : s.discardHidden.mem = s.mem := rfl
@[simp] theorem State.discardHidden_writtenBits (s : State) : s.discardHidden.writtenBits = s.writtenBits := rfl
@[simp] theorem State.discardHidden_cmd (s : State) : s.discardHidden.cmd = s.cmd := rfl
@[simp] theorem State.discardHidden_status (s : State) : s.discardHidden.status = s.status := rfl
@[simp] theorem State.discardHidden_irqEn (s : State) : s.discardHidden.irqEn = s.irqEn := rfl
@[simp] theorem State.discardHidden_bitsize (s : State) : s.discardHidden.bitsize = s.bitsize := rfl
@[simp] theorem State.discardHidden_irq (s : State) : s.discardHidden.irq = s.irq := rfl
@[simp] theorem State.discardHidden_candCap (s : State) : s.discardHidden.candCap = s.candCap := rfl
@[simp] theorem State.discardHidden_restartCap (s : State) : s.discardHidden.restartCap = s.restartCap := rfl
@[simp] theorem State.discardHidden_cntPg0 (s : State) : s.discardHidden.cntPg0 = s.cntPg0 := rfl
@[simp] theorem State.discardHidden_cntPg1 (s : State) : s.discardHidden.cntPg1 = s.cntPg1 := rfl
@[simp] theorem State.discardHidden_cntRestart (s : State) : s.discardHidden.cntRestart = s.cntRestart := rfl
@[simp] theorem State.discardHidden_latch (s : State) : s.discardHidden.latch = Latch.empty := rfl
@[simp] theorem State.discardHidden_unit0 (s : State) : s.discardHidden.unit0 = UnitState.empty := rfl
@[simp] theorem State.discardHidden_unit1 (s : State) : s.discardHidden.unit1 = UnitState.empty := rfl
@[simp] theorem State.discardHidden_seq (s : State) : s.discardHidden.seq = Sequencer.empty := rfl
@[simp] theorem State.discardHidden_unwrittenRead (s : State) : s.discardHidden.unwrittenRead = s.unwrittenRead := rfl
@[simp] theorem State.discardHidden_bus (s : State) : s.discardHidden.bus = s.bus := rfl
@[simp] theorem State.discardHidden_resp (s : State) : s.discardHidden.resp = s.resp := rfl
@[simp] theorem State.discardHidden_turns (s : State) : s.discardHidden.turns = s.turns := rfl
@[simp] theorem State.discardHidden_schedTaken (s : State) : s.discardHidden.schedTaken = s.schedTaken := rfl
@[simp] theorem State.discardHidden_rng0 (s : State) : s.discardHidden.rng0 = s.rng0 := rfl
@[simp] theorem State.discardHidden_rng1 (s : State) : s.discardHidden.rng1 = s.rng1 := rfl

/-! ### startExec -/

@[simp] theorem State.startExec_params (s : State) : s.startExec.params = s.params := rfl
@[simp] theorem State.startExec_mem (s : State) : s.startExec.mem = s.mem := rfl
@[simp] theorem State.startExec_writtenBits (s : State) : s.startExec.writtenBits = s.writtenBits := rfl
@[simp] theorem State.startExec_cmd (s : State) : s.startExec.cmd = s.cmd := rfl
@[simp] theorem State.startExec_status (s : State) : s.startExec.status = s.status.started .exec := rfl
@[simp] theorem State.startExec_irqEn (s : State) : s.startExec.irqEn = s.irqEn := rfl
@[simp] theorem State.startExec_bitsize (s : State) : s.startExec.bitsize = s.bitsize := rfl
@[simp] theorem State.startExec_irq (s : State) : s.startExec.irq = s.irq := rfl
@[simp] theorem State.startExec_candCap (s : State) : s.startExec.candCap = s.candCap := rfl
@[simp] theorem State.startExec_restartCap (s : State) : s.startExec.restartCap = s.restartCap := rfl
@[simp] theorem State.startExec_cntPg0 (s : State) : s.startExec.cntPg0 = s.cntPg0 := rfl
@[simp] theorem State.startExec_cntPg1 (s : State) : s.startExec.cntPg1 = s.cntPg1 := rfl
@[simp] theorem State.startExec_cntRestart (s : State) : s.startExec.cntRestart = s.cntRestart := rfl
@[simp] theorem State.startExec_latch (s : State) : s.startExec.latch = s.latch := rfl
@[simp] theorem State.startExec_unit0 (s : State) : s.startExec.unit0 = s.unit0 := rfl
@[simp] theorem State.startExec_unit1 (s : State) : s.startExec.unit1 = s.unit1 := rfl
@[simp] theorem State.startExec_seq (s : State) : s.startExec.seq = s.seq := rfl
@[simp] theorem State.startExec_unwrittenRead (s : State) : s.startExec.unwrittenRead = s.unwrittenRead := rfl
@[simp] theorem State.startExec_bus (s : State) : s.startExec.bus = s.bus := rfl
@[simp] theorem State.startExec_resp (s : State) : s.startExec.resp = s.resp := rfl
@[simp] theorem State.startExec_turns (s : State) : s.startExec.turns = s.turns := rfl
@[simp] theorem State.startExec_schedTaken (s : State) : s.startExec.schedTaken = s.schedTaken := rfl
@[simp] theorem State.startExec_rng0 (s : State) : s.startExec.rng0 = s.rng0 := rfl
@[simp] theorem State.startExec_rng1 (s : State) : s.startExec.rng1 = s.rng1 := rfl

/-! ### startGenPrime -/

@[simp] theorem State.startGenPrime_params (s : State) : s.startGenPrime.params = s.params := rfl
@[simp] theorem State.startGenPrime_mem (s : State) : s.startGenPrime.mem = s.mem := rfl
@[simp] theorem State.startGenPrime_writtenBits (s : State) : s.startGenPrime.writtenBits = s.writtenBits := rfl
@[simp] theorem State.startGenPrime_cmd (s : State) : s.startGenPrime.cmd = s.cmd := rfl
@[simp] theorem State.startGenPrime_status (s : State) : s.startGenPrime.status = s.status.started .exec := rfl
@[simp] theorem State.startGenPrime_irqEn (s : State) : s.startGenPrime.irqEn = s.irqEn := rfl
@[simp] theorem State.startGenPrime_bitsize (s : State) : s.startGenPrime.bitsize = s.bitsize := rfl
@[simp] theorem State.startGenPrime_irq (s : State) : s.startGenPrime.irq = s.irq := rfl
@[simp] theorem State.startGenPrime_candCap (s : State) : s.startGenPrime.candCap = s.candCap := rfl
@[simp] theorem State.startGenPrime_restartCap (s : State) : s.startGenPrime.restartCap = s.restartCap := rfl
@[simp] theorem State.startGenPrime_cntPg0 (s : State) : s.startGenPrime.cntPg0 = s.cntPg0 := rfl
@[simp] theorem State.startGenPrime_cntPg1 (s : State) : s.startGenPrime.cntPg1 = s.cntPg1 := rfl
@[simp] theorem State.startGenPrime_cntRestart (s : State) : s.startGenPrime.cntRestart = s.cntRestart := rfl
@[simp] theorem State.startGenPrime_latch (s : State) : s.startGenPrime.latch = s.latch := rfl
@[simp] theorem State.startGenPrime_unit0 (s : State) : s.startGenPrime.unit0 = UnitState.searching s.latch.bits := rfl
@[simp] theorem State.startGenPrime_unit1 (s : State) : s.startGenPrime.unit1 = s.unit1 := rfl
@[simp] theorem State.startGenPrime_seq (s : State) : s.startGenPrime.seq = s.seq := rfl
@[simp] theorem State.startGenPrime_unwrittenRead (s : State) : s.startGenPrime.unwrittenRead = s.unwrittenRead := rfl
@[simp] theorem State.startGenPrime_bus (s : State) : s.startGenPrime.bus = s.bus := rfl
@[simp] theorem State.startGenPrime_resp (s : State) : s.startGenPrime.resp = s.resp := rfl
@[simp] theorem State.startGenPrime_turns (s : State) : s.startGenPrime.turns = s.turns := rfl
@[simp] theorem State.startGenPrime_schedTaken (s : State) : s.startGenPrime.schedTaken = s.schedTaken := rfl
@[simp] theorem State.startGenPrime_rng0 (s : State) : s.startGenPrime.rng0 = s.rng0 := rfl
@[simp] theorem State.startGenPrime_rng1 (s : State) : s.startGenPrime.rng1 = s.rng1 := rfl

/-! ### enterSearching -/

@[simp] theorem State.enterSearching_params (s : State) : s.enterSearching.params = s.params := rfl
@[simp] theorem State.enterSearching_mem (s : State) : s.enterSearching.mem = s.mem := rfl
@[simp] theorem State.enterSearching_writtenBits (s : State) : s.enterSearching.writtenBits = s.writtenBits := rfl
@[simp] theorem State.enterSearching_cmd (s : State) : s.enterSearching.cmd = s.cmd := rfl
@[simp] theorem State.enterSearching_status (s : State) : s.enterSearching.status = s.status.started .searchingPrimes := rfl
@[simp] theorem State.enterSearching_irqEn (s : State) : s.enterSearching.irqEn = s.irqEn := rfl
@[simp] theorem State.enterSearching_bitsize (s : State) : s.enterSearching.bitsize = s.bitsize := rfl
@[simp] theorem State.enterSearching_irq (s : State) : s.enterSearching.irq = s.irq := rfl
@[simp] theorem State.enterSearching_candCap (s : State) : s.enterSearching.candCap = s.candCap := rfl
@[simp] theorem State.enterSearching_restartCap (s : State) : s.enterSearching.restartCap = s.restartCap := rfl
@[simp] theorem State.enterSearching_cntPg0 (s : State) : s.enterSearching.cntPg0 = s.cntPg0 := rfl
@[simp] theorem State.enterSearching_cntPg1 (s : State) : s.enterSearching.cntPg1 = s.cntPg1 := rfl
@[simp] theorem State.enterSearching_cntRestart (s : State) : s.enterSearching.cntRestart = s.cntRestart := rfl
@[simp] theorem State.enterSearching_latch (s : State) : s.enterSearching.latch = s.latch := rfl
@[simp] theorem State.enterSearching_unit0 (s : State) : s.enterSearching.unit0 = UnitState.searching (s.latch.bits / 2) := rfl
@[simp] theorem State.enterSearching_unit1 (s : State) : s.enterSearching.unit1 = UnitState.searching (s.latch.bits / 2) := rfl
@[simp] theorem State.enterSearching_seq (s : State) : s.enterSearching.seq = s.seq := rfl
@[simp] theorem State.enterSearching_unwrittenRead (s : State) : s.enterSearching.unwrittenRead = s.unwrittenRead := rfl
@[simp] theorem State.enterSearching_bus (s : State) : s.enterSearching.bus = s.bus := rfl
@[simp] theorem State.enterSearching_resp (s : State) : s.enterSearching.resp = s.resp := rfl
@[simp] theorem State.enterSearching_turns (s : State) : s.enterSearching.turns = s.turns := rfl
@[simp] theorem State.enterSearching_schedTaken (s : State) : s.enterSearching.schedTaken = s.schedTaken := rfl
@[simp] theorem State.enterSearching_rng0 (s : State) : s.enterSearching.rng0 = s.rng0 := rfl
@[simp] theorem State.enterSearching_rng1 (s : State) : s.enterSearching.rng1 = s.rng1 := rfl

/-! ### commit -/

@[simp] theorem State.commit_params (s : State) (ws : List (Nat × Nat)) (r : Bool) : (s.commit ws r).params = s.params := rfl
@[simp] theorem State.commit_mem (s : State) (ws : List (Nat × Nat)) (r : Bool) : (s.commit ws r).mem = s.mem.writeBrs s.params ws := rfl
@[simp] theorem State.commit_writtenBits (s : State) (ws : List (Nat × Nat)) (r : Bool) : (s.commit ws r).writtenBits = s.writtenBits.markBrs s.params ws := rfl
@[simp] theorem State.commit_cmd (s : State) (ws : List (Nat × Nat)) (r : Bool) : (s.commit ws r).cmd = s.cmd := rfl
@[simp] theorem State.commit_status (s : State) (ws : List (Nat × Nat)) (r : Bool) : (s.commit ws r).status = Status.committed r := rfl
@[simp] theorem State.commit_irqEn (s : State) (ws : List (Nat × Nat)) (r : Bool) : (s.commit ws r).irqEn = s.irqEn := rfl
@[simp] theorem State.commit_bitsize (s : State) (ws : List (Nat × Nat)) (r : Bool) : (s.commit ws r).bitsize = s.bitsize := rfl
@[simp] theorem State.commit_irq (s : State) (ws : List (Nat × Nat)) (r : Bool) : (s.commit ws r).irq = { s.irq with doneP := true } := rfl
@[simp] theorem State.commit_candCap (s : State) (ws : List (Nat × Nat)) (r : Bool) : (s.commit ws r).candCap = s.candCap := rfl
@[simp] theorem State.commit_restartCap (s : State) (ws : List (Nat × Nat)) (r : Bool) : (s.commit ws r).restartCap = s.restartCap := rfl
@[simp] theorem State.commit_cntPg0 (s : State) (ws : List (Nat × Nat)) (r : Bool) : (s.commit ws r).cntPg0 = s.cntPg0 := rfl
@[simp] theorem State.commit_cntPg1 (s : State) (ws : List (Nat × Nat)) (r : Bool) : (s.commit ws r).cntPg1 = s.cntPg1 := rfl
@[simp] theorem State.commit_cntRestart (s : State) (ws : List (Nat × Nat)) (r : Bool) : (s.commit ws r).cntRestart = s.cntRestart := rfl
@[simp] theorem State.commit_latch (s : State) (ws : List (Nat × Nat)) (r : Bool) : (s.commit ws r).latch = Latch.empty := rfl
@[simp] theorem State.commit_unit0 (s : State) (ws : List (Nat × Nat)) (r : Bool) : (s.commit ws r).unit0 = UnitState.empty := rfl
@[simp] theorem State.commit_unit1 (s : State) (ws : List (Nat × Nat)) (r : Bool) : (s.commit ws r).unit1 = UnitState.empty := rfl
@[simp] theorem State.commit_seq (s : State) (ws : List (Nat × Nat)) (r : Bool) : (s.commit ws r).seq = Sequencer.empty := rfl
@[simp] theorem State.commit_unwrittenRead (s : State) (ws : List (Nat × Nat)) (r : Bool) : (s.commit ws r).unwrittenRead = s.unwrittenRead := rfl
@[simp] theorem State.commit_bus (s : State) (ws : List (Nat × Nat)) (r : Bool) : (s.commit ws r).bus = s.bus := rfl
@[simp] theorem State.commit_resp (s : State) (ws : List (Nat × Nat)) (r : Bool) : (s.commit ws r).resp = s.resp := rfl
@[simp] theorem State.commit_turns (s : State) (ws : List (Nat × Nat)) (r : Bool) : (s.commit ws r).turns = s.turns := rfl
@[simp] theorem State.commit_schedTaken (s : State) (ws : List (Nat × Nat)) (r : Bool) : (s.commit ws r).schedTaken = s.schedTaken := rfl
@[simp] theorem State.commit_rng0 (s : State) (ws : List (Nat × Nat)) (r : Bool) : (s.commit ws r).rng0 = s.rng0 := rfl
@[simp] theorem State.commit_rng1 (s : State) (ws : List (Nat × Nat)) (r : Bool) : (s.commit ws r).rng1 = s.rng1 := rfl

/-! ### completeError -/

@[simp] theorem State.completeError_params (s : State) (e : ErrCode) : (s.completeError e).params = s.params := rfl
@[simp] theorem State.completeError_mem (s : State) (e : ErrCode) : (s.completeError e).mem = s.mem := rfl
@[simp] theorem State.completeError_writtenBits (s : State) (e : ErrCode) : (s.completeError e).writtenBits = s.writtenBits := rfl
@[simp] theorem State.completeError_cmd (s : State) (e : ErrCode) : (s.completeError e).cmd = s.cmd := rfl
@[simp] theorem State.completeError_status (s : State) (e : ErrCode) : (s.completeError e).status = Status.failed e := rfl
@[simp] theorem State.completeError_irqEn (s : State) (e : ErrCode) : (s.completeError e).irqEn = s.irqEn := rfl
@[simp] theorem State.completeError_bitsize (s : State) (e : ErrCode) : (s.completeError e).bitsize = s.bitsize := rfl
@[simp] theorem State.completeError_irq (s : State) (e : ErrCode) : (s.completeError e).irq = { s.irq with doneP := true } := rfl
@[simp] theorem State.completeError_candCap (s : State) (e : ErrCode) : (s.completeError e).candCap = s.candCap := rfl
@[simp] theorem State.completeError_restartCap (s : State) (e : ErrCode) : (s.completeError e).restartCap = s.restartCap := rfl
@[simp] theorem State.completeError_cntPg0 (s : State) (e : ErrCode) : (s.completeError e).cntPg0 = s.cntPg0 := rfl
@[simp] theorem State.completeError_cntPg1 (s : State) (e : ErrCode) : (s.completeError e).cntPg1 = s.cntPg1 := rfl
@[simp] theorem State.completeError_cntRestart (s : State) (e : ErrCode) : (s.completeError e).cntRestart = s.cntRestart := rfl
@[simp] theorem State.completeError_latch (s : State) (e : ErrCode) : (s.completeError e).latch = Latch.empty := rfl
@[simp] theorem State.completeError_unit0 (s : State) (e : ErrCode) : (s.completeError e).unit0 = UnitState.empty := rfl
@[simp] theorem State.completeError_unit1 (s : State) (e : ErrCode) : (s.completeError e).unit1 = UnitState.empty := rfl
@[simp] theorem State.completeError_seq (s : State) (e : ErrCode) : (s.completeError e).seq = Sequencer.empty := rfl
@[simp] theorem State.completeError_unwrittenRead (s : State) (e : ErrCode) : (s.completeError e).unwrittenRead = s.unwrittenRead := rfl
@[simp] theorem State.completeError_bus (s : State) (e : ErrCode) : (s.completeError e).bus = s.bus := rfl
@[simp] theorem State.completeError_resp (s : State) (e : ErrCode) : (s.completeError e).resp = s.resp := rfl
@[simp] theorem State.completeError_turns (s : State) (e : ErrCode) : (s.completeError e).turns = s.turns := rfl
@[simp] theorem State.completeError_schedTaken (s : State) (e : ErrCode) : (s.completeError e).schedTaken = s.schedTaken := rfl
@[simp] theorem State.completeError_rng0 (s : State) (e : ErrCode) : (s.completeError e).rng0 = s.rng0 := rfl
@[simp] theorem State.completeError_rng1 (s : State) (e : ErrCode) : (s.completeError e).rng1 = s.rng1 := rfl

/-! ### softReset -/

@[simp] theorem State.softReset_params (s : State) : s.softReset.params = s.params := rfl
@[simp] theorem State.softReset_mem (s : State) : s.softReset.mem = s.mem := rfl
@[simp] theorem State.softReset_writtenBits (s : State) : s.softReset.writtenBits = s.writtenBits := rfl
@[simp] theorem State.softReset_cmd (s : State) : s.softReset.cmd = 0 := rfl
@[simp] theorem State.softReset_status (s : State) : s.softReset.status = Status.reset := rfl
@[simp] theorem State.softReset_irqEn (s : State) : s.softReset.irqEn = false := rfl
@[simp] theorem State.softReset_bitsize (s : State) : s.softReset.bitsize = 0 := rfl
@[simp] theorem State.softReset_irq (s : State) : s.softReset.irq = { doneP := false, wbusyP := false } := rfl
@[simp] theorem State.softReset_candCap (s : State) : s.softReset.candCap = 0 := rfl
@[simp] theorem State.softReset_restartCap (s : State) : s.softReset.restartCap = 0 := rfl
@[simp] theorem State.softReset_cntPg0 (s : State) : s.softReset.cntPg0 = 0 := rfl
@[simp] theorem State.softReset_cntPg1 (s : State) : s.softReset.cntPg1 = 0 := rfl
@[simp] theorem State.softReset_cntRestart (s : State) : s.softReset.cntRestart = 0 := rfl
@[simp] theorem State.softReset_latch (s : State) : s.softReset.latch = Latch.empty := rfl
@[simp] theorem State.softReset_unit0 (s : State) : s.softReset.unit0 = UnitState.empty := rfl
@[simp] theorem State.softReset_unit1 (s : State) : s.softReset.unit1 = UnitState.empty := rfl
@[simp] theorem State.softReset_seq (s : State) : s.softReset.seq = Sequencer.empty := rfl
@[simp] theorem State.softReset_unwrittenRead (s : State) : s.softReset.unwrittenRead = s.unwrittenRead := rfl
@[simp] theorem State.softReset_bus (s : State) : s.softReset.bus = s.bus := rfl
@[simp] theorem State.softReset_resp (s : State) : s.softReset.resp = s.resp := rfl
@[simp] theorem State.softReset_turns (s : State) : s.softReset.turns = s.turns := rfl
@[simp] theorem State.softReset_schedTaken (s : State) : s.softReset.schedTaken = s.schedTaken := rfl
@[simp] theorem State.softReset_rng0 (s : State) : s.softReset.rng0 = s.rng0 := rfl
@[simp] theorem State.softReset_rng1 (s : State) : s.softReset.rng1 = s.rng1 := rfl

/-! ### hardReset -/

@[simp] theorem State.hardReset_params (s : State) : s.hardReset.params = s.params := rfl
@[simp] theorem State.hardReset_mem (s : State) : s.hardReset.mem = [] := rfl
@[simp] theorem State.hardReset_writtenBits (s : State) : s.hardReset.writtenBits = 0 := rfl
@[simp] theorem State.hardReset_cmd (s : State) : s.hardReset.cmd = 0 := rfl
@[simp] theorem State.hardReset_status (s : State) : s.hardReset.status = Status.reset := rfl
@[simp] theorem State.hardReset_irqEn (s : State) : s.hardReset.irqEn = false := rfl
@[simp] theorem State.hardReset_bitsize (s : State) : s.hardReset.bitsize = 0 := rfl
@[simp] theorem State.hardReset_irq (s : State) : s.hardReset.irq = { doneP := false, wbusyP := false } := rfl
@[simp] theorem State.hardReset_candCap (s : State) : s.hardReset.candCap = 0 := rfl
@[simp] theorem State.hardReset_restartCap (s : State) : s.hardReset.restartCap = 0 := rfl
@[simp] theorem State.hardReset_cntPg0 (s : State) : s.hardReset.cntPg0 = 0 := rfl
@[simp] theorem State.hardReset_cntPg1 (s : State) : s.hardReset.cntPg1 = 0 := rfl
@[simp] theorem State.hardReset_cntRestart (s : State) : s.hardReset.cntRestart = 0 := rfl
@[simp] theorem State.hardReset_latch (s : State) : s.hardReset.latch = Latch.empty := rfl
@[simp] theorem State.hardReset_unit0 (s : State) : s.hardReset.unit0 = UnitState.empty := rfl
@[simp] theorem State.hardReset_unit1 (s : State) : s.hardReset.unit1 = UnitState.empty := rfl
@[simp] theorem State.hardReset_seq (s : State) : s.hardReset.seq = Sequencer.empty := rfl
@[simp] theorem State.hardReset_unwrittenRead (s : State) : s.hardReset.unwrittenRead = s.unwrittenRead := rfl
@[simp] theorem State.hardReset_bus (s : State) : s.hardReset.bus = s.bus := rfl
@[simp] theorem State.hardReset_resp (s : State) : s.hardReset.resp = BusResp.quiet := rfl
@[simp] theorem State.hardReset_turns (s : State) : s.hardReset.turns = s.turns := rfl
@[simp] theorem State.hardReset_schedTaken (s : State) : s.hardReset.schedTaken = s.schedTaken := rfl
@[simp] theorem State.hardReset_rng0 (s : State) : s.hardReset.rng0 = s.rng0 := rfl
@[simp] theorem State.hardReset_rng1 (s : State) : s.hardReset.rng1 = s.rng1 := rfl

/-! ### noteUnwritten -/

@[simp] theorem State.noteUnwritten_params (s : State) (met : Bool) : (s.noteUnwritten met).params = s.params := rfl
@[simp] theorem State.noteUnwritten_mem (s : State) (met : Bool) : (s.noteUnwritten met).mem = s.mem := rfl
@[simp] theorem State.noteUnwritten_writtenBits (s : State) (met : Bool) : (s.noteUnwritten met).writtenBits = s.writtenBits := rfl
@[simp] theorem State.noteUnwritten_cmd (s : State) (met : Bool) : (s.noteUnwritten met).cmd = s.cmd := rfl
@[simp] theorem State.noteUnwritten_status (s : State) (met : Bool) : (s.noteUnwritten met).status = s.status := rfl
@[simp] theorem State.noteUnwritten_irqEn (s : State) (met : Bool) : (s.noteUnwritten met).irqEn = s.irqEn := rfl
@[simp] theorem State.noteUnwritten_bitsize (s : State) (met : Bool) : (s.noteUnwritten met).bitsize = s.bitsize := rfl
@[simp] theorem State.noteUnwritten_irq (s : State) (met : Bool) : (s.noteUnwritten met).irq = s.irq := rfl
@[simp] theorem State.noteUnwritten_candCap (s : State) (met : Bool) : (s.noteUnwritten met).candCap = s.candCap := rfl
@[simp] theorem State.noteUnwritten_restartCap (s : State) (met : Bool) : (s.noteUnwritten met).restartCap = s.restartCap := rfl
@[simp] theorem State.noteUnwritten_cntPg0 (s : State) (met : Bool) : (s.noteUnwritten met).cntPg0 = s.cntPg0 := rfl
@[simp] theorem State.noteUnwritten_cntPg1 (s : State) (met : Bool) : (s.noteUnwritten met).cntPg1 = s.cntPg1 := rfl
@[simp] theorem State.noteUnwritten_cntRestart (s : State) (met : Bool) : (s.noteUnwritten met).cntRestart = s.cntRestart := rfl
@[simp] theorem State.noteUnwritten_latch (s : State) (met : Bool) : (s.noteUnwritten met).latch = s.latch := rfl
@[simp] theorem State.noteUnwritten_unit0 (s : State) (met : Bool) : (s.noteUnwritten met).unit0 = s.unit0 := rfl
@[simp] theorem State.noteUnwritten_unit1 (s : State) (met : Bool) : (s.noteUnwritten met).unit1 = s.unit1 := rfl
@[simp] theorem State.noteUnwritten_seq (s : State) (met : Bool) : (s.noteUnwritten met).seq = s.seq := rfl
@[simp] theorem State.noteUnwritten_unwrittenRead (s : State) (met : Bool) : (s.noteUnwritten met).unwrittenRead = (s.unwrittenRead || met) := rfl
@[simp] theorem State.noteUnwritten_bus (s : State) (met : Bool) : (s.noteUnwritten met).bus = s.bus := rfl
@[simp] theorem State.noteUnwritten_resp (s : State) (met : Bool) : (s.noteUnwritten met).resp = s.resp := rfl
@[simp] theorem State.noteUnwritten_turns (s : State) (met : Bool) : (s.noteUnwritten met).turns = s.turns := rfl
@[simp] theorem State.noteUnwritten_schedTaken (s : State) (met : Bool) : (s.noteUnwritten met).schedTaken = s.schedTaken := rfl
@[simp] theorem State.noteUnwritten_rng0 (s : State) (met : Bool) : (s.noteUnwritten met).rng0 = s.rng0 := rfl
@[simp] theorem State.noteUnwritten_rng1 (s : State) (met : Bool) : (s.noteUnwritten met).rng1 = s.rng1 := rfl

/-! ### latched -/

@[simp] theorem State.latched_params (s : State) (src : Sources) : (s.latched src).params = s.params := rfl
@[simp] theorem State.latched_mem (s : State) (src : Sources) : (s.latched src).mem = s.mem := rfl
@[simp] theorem State.latched_writtenBits (s : State) (src : Sources) : (s.latched src).writtenBits = s.writtenBits := rfl
@[simp] theorem State.latched_cmd (s : State) (src : Sources) : (s.latched src).cmd = s.cmd := rfl
@[simp] theorem State.latched_status (s : State) (src : Sources) : (s.latched src).status = s.status := rfl
@[simp] theorem State.latched_irqEn (s : State) (src : Sources) : (s.latched src).irqEn = s.irqEn := rfl
@[simp] theorem State.latched_bitsize (s : State) (src : Sources) : (s.latched src).bitsize = s.bitsize := rfl
@[simp] theorem State.latched_irq (s : State) (src : Sources) : (s.latched src).irq = s.irq := rfl
@[simp] theorem State.latched_candCap (s : State) (src : Sources) : (s.latched src).candCap = s.candCap := rfl
@[simp] theorem State.latched_restartCap (s : State) (src : Sources) : (s.latched src).restartCap = s.restartCap := rfl
@[simp] theorem State.latched_cntPg0 (s : State) (src : Sources) : (s.latched src).cntPg0 = 0 := rfl
@[simp] theorem State.latched_cntPg1 (s : State) (src : Sources) : (s.latched src).cntPg1 = 0 := rfl
@[simp] theorem State.latched_cntRestart (s : State) (src : Sources) : (s.latched src).cntRestart = 0 := rfl
@[simp] theorem State.latched_latch (s : State) (src : Sources) : (s.latched src).latch = src.latch s := rfl
@[simp] theorem State.latched_unit0 (s : State) (src : Sources) : (s.latched src).unit0 = s.unit0 := rfl
@[simp] theorem State.latched_unit1 (s : State) (src : Sources) : (s.latched src).unit1 = s.unit1 := rfl
@[simp] theorem State.latched_seq (s : State) (src : Sources) : (s.latched src).seq = s.seq := rfl
@[simp] theorem State.latched_unwrittenRead (s : State) (src : Sources) : (s.latched src).unwrittenRead = (s.unwrittenRead || src.meetsUnwritten s) := rfl
@[simp] theorem State.latched_bus (s : State) (src : Sources) : (s.latched src).bus = s.bus := rfl
@[simp] theorem State.latched_resp (s : State) (src : Sources) : (s.latched src).resp = s.resp := rfl
@[simp] theorem State.latched_turns (s : State) (src : Sources) : (s.latched src).turns = s.turns := rfl
@[simp] theorem State.latched_schedTaken (s : State) (src : Sources) : (s.latched src).schedTaken = s.schedTaken := rfl
@[simp] theorem State.latched_rng0 (s : State) (src : Sources) : (s.latched src).rng0 = s.rng0 := rfl
@[simp] theorem State.latched_rng1 (s : State) (src : Sources) : (s.latched src).rng1 = s.rng1 := rfl

/-! ### setNt -/

@[simp] theorem State.setNt_params (s : State) (t : NtScratch) : (s.setNt t).params = s.params := rfl
@[simp] theorem State.setNt_mem (s : State) (t : NtScratch) : (s.setNt t).mem = s.mem := rfl
@[simp] theorem State.setNt_writtenBits (s : State) (t : NtScratch) : (s.setNt t).writtenBits = s.writtenBits := rfl
@[simp] theorem State.setNt_cmd (s : State) (t : NtScratch) : (s.setNt t).cmd = s.cmd := rfl
@[simp] theorem State.setNt_status (s : State) (t : NtScratch) : (s.setNt t).status = s.status := rfl
@[simp] theorem State.setNt_irqEn (s : State) (t : NtScratch) : (s.setNt t).irqEn = s.irqEn := rfl
@[simp] theorem State.setNt_bitsize (s : State) (t : NtScratch) : (s.setNt t).bitsize = s.bitsize := rfl
@[simp] theorem State.setNt_irq (s : State) (t : NtScratch) : (s.setNt t).irq = s.irq := rfl
@[simp] theorem State.setNt_candCap (s : State) (t : NtScratch) : (s.setNt t).candCap = s.candCap := rfl
@[simp] theorem State.setNt_restartCap (s : State) (t : NtScratch) : (s.setNt t).restartCap = s.restartCap := rfl
@[simp] theorem State.setNt_cntPg0 (s : State) (t : NtScratch) : (s.setNt t).cntPg0 = s.cntPg0 := rfl
@[simp] theorem State.setNt_cntPg1 (s : State) (t : NtScratch) : (s.setNt t).cntPg1 = s.cntPg1 := rfl
@[simp] theorem State.setNt_cntRestart (s : State) (t : NtScratch) : (s.setNt t).cntRestart = s.cntRestart := rfl
@[simp] theorem State.setNt_latch (s : State) (t : NtScratch) : (s.setNt t).latch = s.latch := rfl
@[simp] theorem State.setNt_unit0 (s : State) (t : NtScratch) : (s.setNt t).unit0 = s.unit0 := rfl
@[simp] theorem State.setNt_unit1 (s : State) (t : NtScratch) : (s.setNt t).unit1 = s.unit1 := rfl
@[simp] theorem State.setNt_seq (s : State) (t : NtScratch) : (s.setNt t).seq = { s.seq with nt := t } := rfl
@[simp] theorem State.setNt_unwrittenRead (s : State) (t : NtScratch) : (s.setNt t).unwrittenRead = s.unwrittenRead := rfl
@[simp] theorem State.setNt_bus (s : State) (t : NtScratch) : (s.setNt t).bus = s.bus := rfl
@[simp] theorem State.setNt_resp (s : State) (t : NtScratch) : (s.setNt t).resp = s.resp := rfl
@[simp] theorem State.setNt_turns (s : State) (t : NtScratch) : (s.setNt t).turns = s.turns := rfl
@[simp] theorem State.setNt_schedTaken (s : State) (t : NtScratch) : (s.setNt t).schedTaken = s.schedTaken := rfl
@[simp] theorem State.setNt_rng0 (s : State) (t : NtScratch) : (s.setNt t).rng0 = s.rng0 := rfl
@[simp] theorem State.setNt_rng1 (s : State) (t : NtScratch) : (s.setNt t).rng1 = s.rng1 := rfl

/-! ### moveTo -/

@[simp] theorem State.moveTo_params (s : State) (st : SeqState) (k : KeyRegs) : (s.moveTo st k).params = s.params := rfl
@[simp] theorem State.moveTo_mem (s : State) (st : SeqState) (k : KeyRegs) : (s.moveTo st k).mem = s.mem := rfl
@[simp] theorem State.moveTo_writtenBits (s : State) (st : SeqState) (k : KeyRegs) : (s.moveTo st k).writtenBits = s.writtenBits := rfl
@[simp] theorem State.moveTo_cmd (s : State) (st : SeqState) (k : KeyRegs) : (s.moveTo st k).cmd = s.cmd := rfl
@[simp] theorem State.moveTo_status (s : State) (st : SeqState) (k : KeyRegs) : (s.moveTo st k).status = { s.status with state := st } := rfl
@[simp] theorem State.moveTo_irqEn (s : State) (st : SeqState) (k : KeyRegs) : (s.moveTo st k).irqEn = s.irqEn := rfl
@[simp] theorem State.moveTo_bitsize (s : State) (st : SeqState) (k : KeyRegs) : (s.moveTo st k).bitsize = s.bitsize := rfl
@[simp] theorem State.moveTo_irq (s : State) (st : SeqState) (k : KeyRegs) : (s.moveTo st k).irq = s.irq := rfl
@[simp] theorem State.moveTo_candCap (s : State) (st : SeqState) (k : KeyRegs) : (s.moveTo st k).candCap = s.candCap := rfl
@[simp] theorem State.moveTo_restartCap (s : State) (st : SeqState) (k : KeyRegs) : (s.moveTo st k).restartCap = s.restartCap := rfl
@[simp] theorem State.moveTo_cntPg0 (s : State) (st : SeqState) (k : KeyRegs) : (s.moveTo st k).cntPg0 = s.cntPg0 := rfl
@[simp] theorem State.moveTo_cntPg1 (s : State) (st : SeqState) (k : KeyRegs) : (s.moveTo st k).cntPg1 = s.cntPg1 := rfl
@[simp] theorem State.moveTo_cntRestart (s : State) (st : SeqState) (k : KeyRegs) : (s.moveTo st k).cntRestart = s.cntRestart := rfl
@[simp] theorem State.moveTo_latch (s : State) (st : SeqState) (k : KeyRegs) : (s.moveTo st k).latch = s.latch := rfl
@[simp] theorem State.moveTo_unit0 (s : State) (st : SeqState) (k : KeyRegs) : (s.moveTo st k).unit0 = s.unit0 := rfl
@[simp] theorem State.moveTo_unit1 (s : State) (st : SeqState) (k : KeyRegs) : (s.moveTo st k).unit1 = s.unit1 := rfl
@[simp] theorem State.moveTo_seq (s : State) (st : SeqState) (k : KeyRegs) : (s.moveTo st k).seq = { s.seq with key := k } := rfl
@[simp] theorem State.moveTo_unwrittenRead (s : State) (st : SeqState) (k : KeyRegs) : (s.moveTo st k).unwrittenRead = s.unwrittenRead := rfl
@[simp] theorem State.moveTo_bus (s : State) (st : SeqState) (k : KeyRegs) : (s.moveTo st k).bus = s.bus := rfl
@[simp] theorem State.moveTo_resp (s : State) (st : SeqState) (k : KeyRegs) : (s.moveTo st k).resp = s.resp := rfl
@[simp] theorem State.moveTo_turns (s : State) (st : SeqState) (k : KeyRegs) : (s.moveTo st k).turns = s.turns := rfl
@[simp] theorem State.moveTo_schedTaken (s : State) (st : SeqState) (k : KeyRegs) : (s.moveTo st k).schedTaken = s.schedTaken := rfl
@[simp] theorem State.moveTo_rng0 (s : State) (st : SeqState) (k : KeyRegs) : (s.moveTo st k).rng0 = s.rng0 := rfl
@[simp] theorem State.moveTo_rng1 (s : State) (st : SeqState) (k : KeyRegs) : (s.moveTo st k).rng1 = s.rng1 := rfl

/-! ### dropWrite -/

@[simp] theorem State.dropWrite_params (s : State) : s.dropWrite.params = s.params := rfl
@[simp] theorem State.dropWrite_mem (s : State) : s.dropWrite.mem = s.mem := rfl
@[simp] theorem State.dropWrite_writtenBits (s : State) : s.dropWrite.writtenBits = s.writtenBits := rfl
@[simp] theorem State.dropWrite_cmd (s : State) : s.dropWrite.cmd = s.cmd := rfl
@[simp] theorem State.dropWrite_status (s : State) : s.dropWrite.status = s.status := rfl
@[simp] theorem State.dropWrite_irqEn (s : State) : s.dropWrite.irqEn = s.irqEn := rfl
@[simp] theorem State.dropWrite_bitsize (s : State) : s.dropWrite.bitsize = s.bitsize := rfl
@[simp] theorem State.dropWrite_irq (s : State) : s.dropWrite.irq = { s.irq with wbusyP := true } := rfl
@[simp] theorem State.dropWrite_candCap (s : State) : s.dropWrite.candCap = s.candCap := rfl
@[simp] theorem State.dropWrite_restartCap (s : State) : s.dropWrite.restartCap = s.restartCap := rfl
@[simp] theorem State.dropWrite_cntPg0 (s : State) : s.dropWrite.cntPg0 = s.cntPg0 := rfl
@[simp] theorem State.dropWrite_cntPg1 (s : State) : s.dropWrite.cntPg1 = s.cntPg1 := rfl
@[simp] theorem State.dropWrite_cntRestart (s : State) : s.dropWrite.cntRestart = s.cntRestart := rfl
@[simp] theorem State.dropWrite_latch (s : State) : s.dropWrite.latch = s.latch := rfl
@[simp] theorem State.dropWrite_unit0 (s : State) : s.dropWrite.unit0 = s.unit0 := rfl
@[simp] theorem State.dropWrite_unit1 (s : State) : s.dropWrite.unit1 = s.unit1 := rfl
@[simp] theorem State.dropWrite_seq (s : State) : s.dropWrite.seq = s.seq := rfl
@[simp] theorem State.dropWrite_unwrittenRead (s : State) : s.dropWrite.unwrittenRead = s.unwrittenRead := rfl
@[simp] theorem State.dropWrite_bus (s : State) : s.dropWrite.bus = s.bus := rfl
@[simp] theorem State.dropWrite_resp (s : State) : s.dropWrite.resp = s.resp := rfl
@[simp] theorem State.dropWrite_turns (s : State) : s.dropWrite.turns = s.turns := rfl
@[simp] theorem State.dropWrite_schedTaken (s : State) : s.dropWrite.schedTaken = s.schedTaken := rfl
@[simp] theorem State.dropWrite_rng0 (s : State) : s.dropWrite.rng0 = s.rng0 := rfl
@[simp] theorem State.dropWrite_rng1 (s : State) : s.dropWrite.rng1 = s.rng1 := rfl

/-! ### acceptWord -/

@[simp] theorem State.acceptWord_params (s : State) (w : Word) : (s.acceptWord w).params = s.params := rfl
@[simp] theorem State.acceptWord_mem (s : State) (w : Word) : (s.acceptWord w).mem = s.mem := rfl
@[simp] theorem State.acceptWord_writtenBits (s : State) (w : Word) : (s.acceptWord w).writtenBits = s.writtenBits := rfl
@[simp] theorem State.acceptWord_cmd (s : State) (w : Word) : (s.acceptWord w).cmd = w := rfl
@[simp] theorem State.acceptWord_status (s : State) (w : Word) : (s.acceptWord w).status = s.status.accepted := rfl
@[simp] theorem State.acceptWord_irqEn (s : State) (w : Word) : (s.acceptWord w).irqEn = s.irqEn := rfl
@[simp] theorem State.acceptWord_bitsize (s : State) (w : Word) : (s.acceptWord w).bitsize = s.bitsize := rfl
@[simp] theorem State.acceptWord_irq (s : State) (w : Word) : (s.acceptWord w).irq = s.irq := rfl
@[simp] theorem State.acceptWord_candCap (s : State) (w : Word) : (s.acceptWord w).candCap = s.candCap := rfl
@[simp] theorem State.acceptWord_restartCap (s : State) (w : Word) : (s.acceptWord w).restartCap = s.restartCap := rfl
@[simp] theorem State.acceptWord_cntPg0 (s : State) (w : Word) : (s.acceptWord w).cntPg0 = s.cntPg0 := rfl
@[simp] theorem State.acceptWord_cntPg1 (s : State) (w : Word) : (s.acceptWord w).cntPg1 = s.cntPg1 := rfl
@[simp] theorem State.acceptWord_cntRestart (s : State) (w : Word) : (s.acceptWord w).cntRestart = s.cntRestart := rfl
@[simp] theorem State.acceptWord_latch (s : State) (w : Word) : (s.acceptWord w).latch = s.latch := rfl
@[simp] theorem State.acceptWord_unit0 (s : State) (w : Word) : (s.acceptWord w).unit0 = s.unit0 := rfl
@[simp] theorem State.acceptWord_unit1 (s : State) (w : Word) : (s.acceptWord w).unit1 = s.unit1 := rfl
@[simp] theorem State.acceptWord_seq (s : State) (w : Word) : (s.acceptWord w).seq = s.seq := rfl
@[simp] theorem State.acceptWord_unwrittenRead (s : State) (w : Word) : (s.acceptWord w).unwrittenRead = s.unwrittenRead := rfl
@[simp] theorem State.acceptWord_bus (s : State) (w : Word) : (s.acceptWord w).bus = s.bus := rfl
@[simp] theorem State.acceptWord_resp (s : State) (w : Word) : (s.acceptWord w).resp = s.resp := rfl
@[simp] theorem State.acceptWord_turns (s : State) (w : Word) : (s.acceptWord w).turns = s.turns := rfl
@[simp] theorem State.acceptWord_schedTaken (s : State) (w : Word) : (s.acceptWord w).schedTaken = s.schedTaken := rfl
@[simp] theorem State.acceptWord_rng0 (s : State) (w : Word) : (s.acceptWord w).rng0 = s.rng0 := rfl
@[simp] theorem State.acceptWord_rng1 (s : State) (w : Word) : (s.acceptWord w).rng1 = s.rng1 := rfl

/-! ### answer -/

@[simp] theorem State.answer_params (s : State) (r : BusResp) : (s.answer r).params = s.params := rfl
@[simp] theorem State.answer_mem (s : State) (r : BusResp) : (s.answer r).mem = s.mem := rfl
@[simp] theorem State.answer_writtenBits (s : State) (r : BusResp) : (s.answer r).writtenBits = s.writtenBits := rfl
@[simp] theorem State.answer_cmd (s : State) (r : BusResp) : (s.answer r).cmd = s.cmd := rfl
@[simp] theorem State.answer_status (s : State) (r : BusResp) : (s.answer r).status = s.status := rfl
@[simp] theorem State.answer_irqEn (s : State) (r : BusResp) : (s.answer r).irqEn = s.irqEn := rfl
@[simp] theorem State.answer_bitsize (s : State) (r : BusResp) : (s.answer r).bitsize = s.bitsize := rfl
@[simp] theorem State.answer_irq (s : State) (r : BusResp) : (s.answer r).irq = s.irq := rfl
@[simp] theorem State.answer_candCap (s : State) (r : BusResp) : (s.answer r).candCap = s.candCap := rfl
@[simp] theorem State.answer_restartCap (s : State) (r : BusResp) : (s.answer r).restartCap = s.restartCap := rfl
@[simp] theorem State.answer_cntPg0 (s : State) (r : BusResp) : (s.answer r).cntPg0 = s.cntPg0 := rfl
@[simp] theorem State.answer_cntPg1 (s : State) (r : BusResp) : (s.answer r).cntPg1 = s.cntPg1 := rfl
@[simp] theorem State.answer_cntRestart (s : State) (r : BusResp) : (s.answer r).cntRestart = s.cntRestart := rfl
@[simp] theorem State.answer_latch (s : State) (r : BusResp) : (s.answer r).latch = s.latch := rfl
@[simp] theorem State.answer_unit0 (s : State) (r : BusResp) : (s.answer r).unit0 = s.unit0 := rfl
@[simp] theorem State.answer_unit1 (s : State) (r : BusResp) : (s.answer r).unit1 = s.unit1 := rfl
@[simp] theorem State.answer_seq (s : State) (r : BusResp) : (s.answer r).seq = s.seq := rfl
@[simp] theorem State.answer_unwrittenRead (s : State) (r : BusResp) : (s.answer r).unwrittenRead = s.unwrittenRead := rfl
@[simp] theorem State.answer_bus (s : State) (r : BusResp) : (s.answer r).bus = s.bus := rfl
@[simp] theorem State.answer_resp (s : State) (r : BusResp) : (s.answer r).resp = r := rfl
@[simp] theorem State.answer_turns (s : State) (r : BusResp) : (s.answer r).turns = s.turns := rfl
@[simp] theorem State.answer_schedTaken (s : State) (r : BusResp) : (s.answer r).schedTaken = s.schedTaken := rfl
@[simp] theorem State.answer_rng0 (s : State) (r : BusResp) : (s.answer r).rng0 = s.rng0 := rfl
@[simp] theorem State.answer_rng1 (s : State) (r : BusResp) : (s.answer r).rng1 = s.rng1 := rfl

/-! ### Updates of one unit's part -/

@[simp] theorem State.setRng_params (s : State) (u : UnitId) (x : Source) : (s.setRng u x).params = s.params := by cases u <;> rfl
@[simp] theorem State.setRng_mem (s : State) (u : UnitId) (x : Source) : (s.setRng u x).mem = s.mem := by cases u <;> rfl
@[simp] theorem State.setRng_writtenBits (s : State) (u : UnitId) (x : Source) : (s.setRng u x).writtenBits = s.writtenBits := by cases u <;> rfl
@[simp] theorem State.setRng_cmd (s : State) (u : UnitId) (x : Source) : (s.setRng u x).cmd = s.cmd := by cases u <;> rfl
@[simp] theorem State.setRng_status (s : State) (u : UnitId) (x : Source) : (s.setRng u x).status = s.status := by cases u <;> rfl
@[simp] theorem State.setRng_irqEn (s : State) (u : UnitId) (x : Source) : (s.setRng u x).irqEn = s.irqEn := by cases u <;> rfl
@[simp] theorem State.setRng_bitsize (s : State) (u : UnitId) (x : Source) : (s.setRng u x).bitsize = s.bitsize := by cases u <;> rfl
@[simp] theorem State.setRng_irq (s : State) (u : UnitId) (x : Source) : (s.setRng u x).irq = s.irq := by cases u <;> rfl
@[simp] theorem State.setRng_candCap (s : State) (u : UnitId) (x : Source) : (s.setRng u x).candCap = s.candCap := by cases u <;> rfl
@[simp] theorem State.setRng_restartCap (s : State) (u : UnitId) (x : Source) : (s.setRng u x).restartCap = s.restartCap := by cases u <;> rfl
@[simp] theorem State.setRng_cntPg0 (s : State) (u : UnitId) (x : Source) : (s.setRng u x).cntPg0 = s.cntPg0 := by cases u <;> rfl
@[simp] theorem State.setRng_cntPg1 (s : State) (u : UnitId) (x : Source) : (s.setRng u x).cntPg1 = s.cntPg1 := by cases u <;> rfl
@[simp] theorem State.setRng_cntRestart (s : State) (u : UnitId) (x : Source) : (s.setRng u x).cntRestart = s.cntRestart := by cases u <;> rfl
@[simp] theorem State.setRng_latch (s : State) (u : UnitId) (x : Source) : (s.setRng u x).latch = s.latch := by cases u <;> rfl
@[simp] theorem State.setRng_unit0 (s : State) (u : UnitId) (x : Source) : (s.setRng u x).unit0 = s.unit0 := by cases u <;> rfl
@[simp] theorem State.setRng_unit1 (s : State) (u : UnitId) (x : Source) : (s.setRng u x).unit1 = s.unit1 := by cases u <;> rfl
@[simp] theorem State.setRng_seq (s : State) (u : UnitId) (x : Source) : (s.setRng u x).seq = s.seq := by cases u <;> rfl
@[simp] theorem State.setRng_unwrittenRead (s : State) (u : UnitId) (x : Source) : (s.setRng u x).unwrittenRead = s.unwrittenRead := by cases u <;> rfl
@[simp] theorem State.setRng_bus (s : State) (u : UnitId) (x : Source) : (s.setRng u x).bus = s.bus := by cases u <;> rfl
@[simp] theorem State.setRng_resp (s : State) (u : UnitId) (x : Source) : (s.setRng u x).resp = s.resp := by cases u <;> rfl
@[simp] theorem State.setRng_turns (s : State) (u : UnitId) (x : Source) : (s.setRng u x).turns = s.turns := by cases u <;> rfl
@[simp] theorem State.setRng_schedTaken (s : State) (u : UnitId) (x : Source) : (s.setRng u x).schedTaken = s.schedTaken := by cases u <;> rfl

@[simp] theorem State.setUnit_params (s : State) (u : UnitId) (x : UnitState) : (s.setUnit u x).params = s.params := by cases u <;> rfl
@[simp] theorem State.setUnit_mem (s : State) (u : UnitId) (x : UnitState) : (s.setUnit u x).mem = s.mem := by cases u <;> rfl
@[simp] theorem State.setUnit_writtenBits (s : State) (u : UnitId) (x : UnitState) : (s.setUnit u x).writtenBits = s.writtenBits := by cases u <;> rfl
@[simp] theorem State.setUnit_cmd (s : State) (u : UnitId) (x : UnitState) : (s.setUnit u x).cmd = s.cmd := by cases u <;> rfl
@[simp] theorem State.setUnit_status (s : State) (u : UnitId) (x : UnitState) : (s.setUnit u x).status = s.status := by cases u <;> rfl
@[simp] theorem State.setUnit_irqEn (s : State) (u : UnitId) (x : UnitState) : (s.setUnit u x).irqEn = s.irqEn := by cases u <;> rfl
@[simp] theorem State.setUnit_bitsize (s : State) (u : UnitId) (x : UnitState) : (s.setUnit u x).bitsize = s.bitsize := by cases u <;> rfl
@[simp] theorem State.setUnit_irq (s : State) (u : UnitId) (x : UnitState) : (s.setUnit u x).irq = s.irq := by cases u <;> rfl
@[simp] theorem State.setUnit_candCap (s : State) (u : UnitId) (x : UnitState) : (s.setUnit u x).candCap = s.candCap := by cases u <;> rfl
@[simp] theorem State.setUnit_restartCap (s : State) (u : UnitId) (x : UnitState) : (s.setUnit u x).restartCap = s.restartCap := by cases u <;> rfl
@[simp] theorem State.setUnit_cntPg0 (s : State) (u : UnitId) (x : UnitState) : (s.setUnit u x).cntPg0 = s.cntPg0 := by cases u <;> rfl
@[simp] theorem State.setUnit_cntPg1 (s : State) (u : UnitId) (x : UnitState) : (s.setUnit u x).cntPg1 = s.cntPg1 := by cases u <;> rfl
@[simp] theorem State.setUnit_cntRestart (s : State) (u : UnitId) (x : UnitState) : (s.setUnit u x).cntRestart = s.cntRestart := by cases u <;> rfl
@[simp] theorem State.setUnit_latch (s : State) (u : UnitId) (x : UnitState) : (s.setUnit u x).latch = s.latch := by cases u <;> rfl
@[simp] theorem State.setUnit_seq (s : State) (u : UnitId) (x : UnitState) : (s.setUnit u x).seq = s.seq := by cases u <;> rfl
@[simp] theorem State.setUnit_unwrittenRead (s : State) (u : UnitId) (x : UnitState) : (s.setUnit u x).unwrittenRead = s.unwrittenRead := by cases u <;> rfl
@[simp] theorem State.setUnit_bus (s : State) (u : UnitId) (x : UnitState) : (s.setUnit u x).bus = s.bus := by cases u <;> rfl
@[simp] theorem State.setUnit_resp (s : State) (u : UnitId) (x : UnitState) : (s.setUnit u x).resp = s.resp := by cases u <;> rfl
@[simp] theorem State.setUnit_turns (s : State) (u : UnitId) (x : UnitState) : (s.setUnit u x).turns = s.turns := by cases u <;> rfl
@[simp] theorem State.setUnit_schedTaken (s : State) (u : UnitId) (x : UnitState) : (s.setUnit u x).schedTaken = s.schedTaken := by cases u <;> rfl
@[simp] theorem State.setUnit_rng0 (s : State) (u : UnitId) (x : UnitState) : (s.setUnit u x).rng0 = s.rng0 := by cases u <;> rfl
@[simp] theorem State.setUnit_rng1 (s : State) (u : UnitId) (x : UnitState) : (s.setUnit u x).rng1 = s.rng1 := by cases u <;> rfl

@[simp] theorem State.countCandidate_params (s : State) (u : UnitId) : (s.countCandidate u).params = s.params := by cases u <;> rfl
@[simp] theorem State.countCandidate_mem (s : State) (u : UnitId) : (s.countCandidate u).mem = s.mem := by cases u <;> rfl
@[simp] theorem State.countCandidate_writtenBits (s : State) (u : UnitId) : (s.countCandidate u).writtenBits = s.writtenBits := by cases u <;> rfl
@[simp] theorem State.countCandidate_cmd (s : State) (u : UnitId) : (s.countCandidate u).cmd = s.cmd := by cases u <;> rfl
@[simp] theorem State.countCandidate_status (s : State) (u : UnitId) : (s.countCandidate u).status = s.status := by cases u <;> rfl
@[simp] theorem State.countCandidate_irqEn (s : State) (u : UnitId) : (s.countCandidate u).irqEn = s.irqEn := by cases u <;> rfl
@[simp] theorem State.countCandidate_bitsize (s : State) (u : UnitId) : (s.countCandidate u).bitsize = s.bitsize := by cases u <;> rfl
@[simp] theorem State.countCandidate_irq (s : State) (u : UnitId) : (s.countCandidate u).irq = s.irq := by cases u <;> rfl
@[simp] theorem State.countCandidate_candCap (s : State) (u : UnitId) : (s.countCandidate u).candCap = s.candCap := by cases u <;> rfl
@[simp] theorem State.countCandidate_restartCap (s : State) (u : UnitId) : (s.countCandidate u).restartCap = s.restartCap := by cases u <;> rfl
@[simp] theorem State.countCandidate_cntRestart (s : State) (u : UnitId) : (s.countCandidate u).cntRestart = s.cntRestart := by cases u <;> rfl
@[simp] theorem State.countCandidate_latch (s : State) (u : UnitId) : (s.countCandidate u).latch = s.latch := by cases u <;> rfl
@[simp] theorem State.countCandidate_unit0 (s : State) (u : UnitId) : (s.countCandidate u).unit0 = s.unit0 := by cases u <;> rfl
@[simp] theorem State.countCandidate_unit1 (s : State) (u : UnitId) : (s.countCandidate u).unit1 = s.unit1 := by cases u <;> rfl
@[simp] theorem State.countCandidate_seq (s : State) (u : UnitId) : (s.countCandidate u).seq = s.seq := by cases u <;> rfl
@[simp] theorem State.countCandidate_unwrittenRead (s : State) (u : UnitId) : (s.countCandidate u).unwrittenRead = s.unwrittenRead := by cases u <;> rfl
@[simp] theorem State.countCandidate_bus (s : State) (u : UnitId) : (s.countCandidate u).bus = s.bus := by cases u <;> rfl
@[simp] theorem State.countCandidate_resp (s : State) (u : UnitId) : (s.countCandidate u).resp = s.resp := by cases u <;> rfl
@[simp] theorem State.countCandidate_turns (s : State) (u : UnitId) : (s.countCandidate u).turns = s.turns := by cases u <;> rfl
@[simp] theorem State.countCandidate_schedTaken (s : State) (u : UnitId) : (s.countCandidate u).schedTaken = s.schedTaken := by cases u <;> rfl
@[simp] theorem State.countCandidate_rng0 (s : State) (u : UnitId) : (s.countCandidate u).rng0 = s.rng0 := by cases u <;> rfl
@[simp] theorem State.countCandidate_rng1 (s : State) (u : UnitId) : (s.countCandidate u).rng1 = s.rng1 := by cases u <;> rfl

@[simp] theorem State.setRng_rng (s : State) (u v : UnitId) (x : Source) :
    (s.setRng u x).rng v = if v = u then x else s.rng v := by cases u <;> cases v <;> rfl
@[simp] theorem State.setRng_unit (s : State) (u v : UnitId) (x : Source) : (s.setRng u x).unit v = s.unit v := by
  cases u <;> cases v <;> rfl
@[simp] theorem State.setRng_cntPg (s : State) (u v : UnitId) (x : Source) : (s.setRng u x).cntPg v = s.cntPg v := by
  cases u <;> cases v <;> rfl
@[simp] theorem State.setUnit_unit (s : State) (u v : UnitId) (x : UnitState) :
    (s.setUnit u x).unit v = if v = u then x else s.unit v := by cases u <;> cases v <;> rfl
@[simp] theorem State.setUnit_rng (s : State) (u v : UnitId) (x : UnitState) : (s.setUnit u x).rng v = s.rng v := by
  cases u <;> cases v <;> rfl
@[simp] theorem State.setUnit_cntPg (s : State) (u v : UnitId) (x : UnitState) :
    (s.setUnit u x).cntPg v = s.cntPg v := by cases u <;> cases v <;> rfl
@[simp] theorem State.countCandidate_cntPg (s : State) (u v : UnitId) :
    (s.countCandidate u).cntPg v = if v = u then satInc (s.cntPg v) else s.cntPg v := by
  cases u <;> cases v <;> rfl
@[simp] theorem State.countCandidate_unit (s : State) (u v : UnitId) : (s.countCandidate u).unit v = s.unit v := by
  cases u <;> cases v <;> rfl
@[simp] theorem State.countCandidate_rng (s : State) (u v : UnitId) : (s.countCandidate u).rng v = s.rng v := by
  cases u <;> cases v <;> rfl
@[simp] theorem State.unit_u0 (s : State) : s.unit .u0 = s.unit0 := rfl
@[simp] theorem State.unit_u1 (s : State) : s.unit .u1 = s.unit1 := rfl
@[simp] theorem State.rng_u0 (s : State) : s.rng .u0 = s.rng0 := rfl
@[simp] theorem State.rng_u1 (s : State) : s.rng .u1 = s.rng1 := rfl
@[simp] theorem State.cntPg_u0 (s : State) : s.cntPg .u0 = s.cntPg0 := rfl
@[simp] theorem State.cntPg_u1 (s : State) : s.cntPg .u1 = s.cntPg1 := rfl
@[simp] theorem State.setRng_u0_rng0 (s : State) (x : Source) : (s.setRng .u0 x).rng0 = x := rfl
@[simp] theorem State.setRng_u0_rng1 (s : State) (x : Source) : (s.setRng .u0 x).rng1 = s.rng1 := rfl
@[simp] theorem State.setRng_u1_rng0 (s : State) (x : Source) : (s.setRng .u1 x).rng0 = s.rng0 := rfl
@[simp] theorem State.setRng_u1_rng1 (s : State) (x : Source) : (s.setRng .u1 x).rng1 = x := rfl
@[simp] theorem State.setUnit_u0_unit0 (s : State) (x : UnitState) : (s.setUnit .u0 x).unit0 = x := rfl
@[simp] theorem State.setUnit_u0_unit1 (s : State) (x : UnitState) : (s.setUnit .u0 x).unit1 = s.unit1 := rfl
@[simp] theorem State.setUnit_u1_unit0 (s : State) (x : UnitState) : (s.setUnit .u1 x).unit0 = s.unit0 := rfl
@[simp] theorem State.setUnit_u1_unit1 (s : State) (x : UnitState) : (s.setUnit .u1 x).unit1 = x := rfl
@[simp] theorem State.countCandidate_u0_cntPg0 (s : State) : (s.countCandidate .u0).cntPg0 = satInc s.cntPg0 := rfl
@[simp] theorem State.countCandidate_u0_cntPg1 (s : State) : (s.countCandidate .u0).cntPg1 = s.cntPg1 := rfl
@[simp] theorem State.countCandidate_u1_cntPg0 (s : State) : (s.countCandidate .u1).cntPg0 = s.cntPg0 := rfl
@[simp] theorem State.countCandidate_u1_cntPg1 (s : State) : (s.countCandidate .u1).cntPg1 = satInc s.cntPg1 := rfl

/-! ### Nothing to record -/

@[simp] theorem State.noteUnwritten_false (s : State) : s.noteUnwritten false = s := by
  rw [State.noteUnwritten, Bool.or_false]

/-! ### The end of a command with one destination -/

/-- A command's commit of one register, the pending result being taken at once. -/
@[simp] theorem State.finish_eq_commit (s : State) (rd v : Nat) (r : Bool) : s.finish rd v r = s.commit [(rd, v)] r := rfl

@[simp] theorem State.finishVerdict_eq_commit (s : State) (rd : Nat) (v : Bool) :
    s.finishVerdict rd v = s.commit [(rd, v.toNat)] v := rfl

end Sys2Proof.Machine
end

