-- ==== Sys2Proof/Laws/Memory.lean ====
section
/-! SUPPORT. The window's bytes: what a byte, a word or a register reads after a write, and that every operation keeps the
canonical form. -/

namespace Sys2Proof

/-! ### The width -/

theorem Params.maxWords_le (p : Params) : p.maxWords ≤ 128 := by
  have := p.lastWord.isLt
  simp only [Params.maxWords]
  omega

theorem Params.maxWords_pos (p : Params) : 1 ≤ p.maxWords := by simp [Params.maxWords]

end Sys2Proof

namespace Sys2Proof.Machine

/-! ### Bytes of numbers -/

@[simp] theorem leBytes_length (n v : Nat) : (leBytes n v).length = n := by
  induction n generalizing v with
  | zero => rfl
  | succ n ih => simp [leBytes, ih]

theorem leNat_lt (bs : List Byte) : leNat bs < 256 ^ bs.length := by
  induction bs with
  | nil => simp [leNat]
  | cons b bs ih =>
    have hb := b.isLt
    simp only [leNat, List.length_cons, Nat.pow_succ]
    omega

/-- A number below 256^n is read back from its n bytes. -/
theorem leNat_leBytes (n v : Nat) (h : v < 256 ^ n) : leNat (leBytes n v) = v := by
  induction n generalizing v with
  | zero => simp_all [leBytes, leNat]
  | succ n ih =>
    have : v / 256 < 256 ^ n := Nat.div_lt_of_lt_mul (by rw [Nat.pow_succ] at h; omega)
    simp only [leBytes, leNat, ih _ this, BitVec.toNat_ofNat]
    omega

theorem pow_brBytes (p : Params) : 256 ^ (4 * p.maxWords) = 2 ^ p.maxBits := by
  rw [show (256 : Nat) = 2 ^ 8 from rfl, ← Nat.pow_mul]
  congr 1
  simp only [Params.maxBits]
  omega

/-! ### One byte -/

theorem Memory.find_append (m m' : Memory) (a : Nat) :
    Memory.find (m ++ m') a = (Memory.find m a).or (Memory.find m' a) := by
  induction m with
  | nil => simp [Memory.find]
  | cons c m ih => by_cases h : c.1 = a <;> simp [Memory.find, h, ih]

theorem Memory.find_filter_pos (p : Nat → Bool) (m : Memory) (a : Nat) (h : p a = true) :
    Memory.find (m.filter fun c => p c.1) a = Memory.find m a := by
  induction m with
  | nil => rfl
  | cons c m ih =>
    by_cases hc : c.1 = a
    · subst hc; simp [h, Memory.find]
    · by_cases hp : p c.1 = true <;> simp [hp, Memory.find, hc, ih]

theorem Memory.find_filter_neg (p : Nat → Bool) (m : Memory) (a : Nat) (h : p a = false) :
    Memory.find (m.filter fun c => p c.1) a = none := by
  induction m with
  | nil => rfl
  | cons c m ih =>
    by_cases hp : p c.1 = true
    · have hc : c.1 ≠ a := by intro hc; simp [hc, h] at hp
      simp [hp, Memory.find, hc, ih]
    · simp [hp, ih]

/-- The bytes laid out from `lo` up are listed where they are not what an unlisted byte reads as. -/
theorem Memory.find_cellsAt (lo : Nat) (bs : List Byte) (a : Nat) :
    Memory.find (Memory.cellsAt lo bs) a =
      if lo ≤ a then (bs[a - lo]?).filter (fun b => decide (b ≠ Memory.unlisted)) else none := by
  induction bs generalizing lo with
  | nil => simp [Memory.cellsAt, Memory.find]
  | cons b bs ih =>
    rcases Nat.lt_trichotomy lo a with h | h | h
    · have h4 : a - lo = (a - (lo + 1)) + 1 := by omega
      by_cases hb : b = Memory.unlisted <;>
        simp [Memory.cellsAt, hb, Memory.find, show lo ≠ a by omega, ih, show lo + 1 ≤ a by omega, Nat.le_of_lt h, h4]
    · subst h
      by_cases hb : b = Memory.unlisted <;> simp [Memory.cellsAt, hb, Memory.find, ih, Option.filter]
    · by_cases hb : b = Memory.unlisted <;>
        simp [Memory.cellsAt, hb, Memory.find, show lo ≠ a by omega, ih, show ¬lo + 1 ≤ a by omega, show ¬lo ≤ a by omega]

/-- What a byte reads after a write: the written byte inside the written range, the old one outside. -/
theorem Memory.read_splice (lo : Nat) (bs : List Byte) (m : Memory) (a : Nat) :
    Memory.read (m.splice lo bs) a =
      if lo ≤ a ∧ a < lo + bs.length then bs.getD (a - lo) Memory.unlisted else m.read a := by
  rw [Memory.read, Memory.splice, Memory.find_append, Memory.find_append, Memory.find_cellsAt]
  rcases Nat.lt_or_ge a lo with h | h
  · rw [Memory.find_filter_pos (fun k => decide (k < lo)) m a (by simpa using h),
      Memory.find_filter_neg (fun k => decide (lo + bs.length ≤ k)) m a (by simp; omega)]
    simp [show ¬lo ≤ a by omega, Memory.read]
  · rw [Memory.find_filter_neg (fun k => decide (k < lo)) m a (by simp; omega)]
    by_cases h' : a < lo + bs.length
    · rw [Memory.find_filter_neg (fun k => decide (lo + bs.length ≤ k)) m a (by simp; omega), if_pos h, if_pos ⟨h, h'⟩,
        List.getD_eq_getElem?_getD]
      cases hb : bs[a - lo]? with
      | none => rfl
      | some b => by_cases h0 : b = Memory.unlisted <;> simp [h0, Option.filter]
    · rw [Memory.find_filter_pos (fun k => decide (lo + bs.length ≤ k)) m a (by simp; omega)]
      have : bs[a - lo]? = none := by simp; omega
      simp [h, h', this, Memory.read]

theorem Memory.read_splice_of_outside {lo : Nat} {bs : List Byte} {m : Memory} {a : Nat}
    (h : a < lo ∨ lo + bs.length ≤ a) : Memory.read (m.splice lo bs) a = m.read a := by
  rw [Memory.read_splice, if_neg (by omega)]

@[simp] theorem Memory.read_nil (a : Nat) : Memory.read [] a = Memory.unlisted := rfl

/-! ### The canonical form -/

theorem Memory.cellsAt_bounds {lo : Nat} {bs : List Byte} {c : Host.Cell} (h : c ∈ Memory.cellsAt lo bs) :
    lo ≤ c.1 ∧ c.1 < lo + bs.length ∧ c.2 ≠ Memory.unlisted := by
  induction bs generalizing lo with
  | nil => simp [Memory.cellsAt] at h
  | cons b bs ih =>
    simp only [Memory.cellsAt] at h
    split at h
    · have := ih h; simp only [List.length_cons]; exact ⟨by omega, by omega, this.2.2⟩
    · next hb =>
      rcases List.mem_cons.mp h with rfl | h
      · exact ⟨Nat.le_refl _, by simp, hb⟩
      · have := ih h; simp only [List.length_cons]; exact ⟨by omega, by omega, this.2.2⟩

theorem Memory.cellsAt_wf (lo : Nat) (bs : List Byte) : (Memory.cellsAt lo bs).wf := by
  refine ⟨?_, fun c hc => (Memory.cellsAt_bounds hc).2.2⟩
  induction bs generalizing lo with
  | nil => exact List.Pairwise.nil
  | cons b bs ih =>
    simp only [Memory.cellsAt]
    split
    · exact ih _
    · refine List.Pairwise.cons (fun c hc => ?_) (ih _)
      have := (Memory.cellsAt_bounds hc).1
      show lo < c.1
      omega

/-- A listed cell of a written memory was listed before, outside the written range, or is one of the new ones. -/
theorem Memory.mem_splice {lo : Nat} {bs : List Byte} {m : Memory} {c : Host.Cell} (h : c ∈ m.splice lo bs) :
    c ∈ m ∨ (lo ≤ c.1 ∧ c.1 < lo + bs.length) := by
  rw [Memory.splice, List.mem_append, List.mem_append] at h
  rcases h with (h | h) | h
  · exact .inl (List.mem_filter.mp h).1
  · exact .inr ⟨(Memory.cellsAt_bounds h).1, (Memory.cellsAt_bounds h).2.1⟩
  · exact .inl (List.mem_filter.mp h).1

/-- Every write keeps the canonical form. -/
theorem Memory.splice_wf (lo : Nat) (bs : List Byte) {m : Memory} (h : m.wf) : (m.splice lo bs).wf := by
  constructor
  · rw [Memory.splice, List.pairwise_append, List.pairwise_append]
    refine ⟨⟨h.1.filter _, (Memory.cellsAt_wf _ _).1, ?_⟩, h.1.filter _, ?_⟩
    · intro c hc d hd
      have h1 : c.1 < lo := by simpa using (List.mem_filter.mp hc).2
      have := (Memory.cellsAt_bounds hd).1
      omega
    · intro c hc d hd
      have h2 : lo + bs.length ≤ d.1 := by simpa using (List.mem_filter.mp hd).2
      rcases List.mem_append.mp hc with hc | hc
      · have h1 : c.1 < lo := by simpa using (List.mem_filter.mp hc).2
        omega
      · have := (Memory.cellsAt_bounds hc).2.1
        omega
  · intro c hc
    rw [Memory.splice, List.mem_append, List.mem_append] at hc
    rcases hc with (hc | hc) | hc
    · exact h.2 c (List.mem_filter.mp hc).1
    · exact (Memory.cellsAt_bounds hc).2.2
    · exact h.2 c (List.mem_filter.mp hc).1

theorem Memory.writeWord_wf {m : Memory} (off : Nat) (w : Word) (h : m.wf) : (m.writeWord off w).wf :=
  Memory.splice_wf _ _ h

theorem Memory.writeBr_wf (p : Params) {m : Memory} (i v : Nat) (h : m.wf) : (m.writeBr p i v).wf :=
  Memory.splice_wf _ _ h

theorem Memory.writeBrs_wf (p : Params) {m : Memory} (ws : List (Nat × Nat)) (h : m.wf) : (m.writeBrs p ws).wf := by
  induction ws generalizing m with
  | nil => exact h
  | cons w ws ih => exact ih (Memory.writeBr_wf p w.1 w.2 h)

theorem State.reset_mem_wf : State.reset.mem.wf := ⟨List.Pairwise.nil, nofun⟩

/-! ### Runs of bytes -/

@[simp] theorem Memory.readBytes_length (m : Memory) (n lo : Nat) : (m.readBytes n lo).length = n := by
  induction n generalizing lo with
  | zero => rfl
  | succ n ih => simp [Memory.readBytes, ih]

/-- Reading depends only on the bytes read. -/
theorem Memory.readBytes_congr {m m' : Memory} {n lo : Nat} (h : ∀ a, lo ≤ a → a < lo + n → m.read a = m'.read a) :
    m.readBytes n lo = m'.readBytes n lo := by
  induction n generalizing lo with
  | zero => rfl
  | succ n ih =>
    rw [Memory.readBytes, Memory.readBytes, h lo (by omega) (by omega), ih fun a h1 h2 => h a (by omega) (by omega)]

theorem Memory.readBytes_eq {m : Memory} {n lo : Nat} {bs : List Byte} (hl : bs.length = n)
    (h : ∀ k, k < n → m.read (lo + k) = bs.getD k Memory.unlisted) : m.readBytes n lo = bs := by
  induction n generalizing lo bs with
  | zero => simp_all [Memory.readBytes]
  | succ n ih =>
    cases bs with
    | nil => simp at hl
    | cons b bs =>
      rw [Memory.readBytes, ih (bs := bs) (by simpa using hl) fun k hk => ?_]
      · simpa using h 0 (by omega)
      · rw [show lo + 1 + k = lo + (k + 1) by omega, h (k + 1) (by omega)]
        simp

/-- What was written is read back. -/
theorem Memory.readBytes_splice_same (m : Memory) (lo : Nat) (bs : List Byte) :
    (m.splice lo bs).readBytes bs.length lo = bs :=
  Memory.readBytes_eq rfl fun k hk => by
    rw [Memory.read_splice, if_pos (by omega)]
    congr 1
    omega

/-- A run that does not meet the written range reads as before. -/
theorem Memory.readBytes_splice_disjoint {m : Memory} {lo n lo' : Nat} {bs : List Byte}
    (h : lo' + n ≤ lo ∨ lo + bs.length ≤ lo') : (m.splice lo bs).readBytes n lo' = m.readBytes n lo' :=
  Memory.readBytes_congr fun a h1 h2 => Memory.read_splice_of_outside (by omega)

/-! ### Words and registers -/

theorem Memory.readWord_writeWord (m : Memory) (off : Nat) (w : Word) : (m.writeWord off w).readWord off = w := by
  have h := Memory.readBytes_splice_same m off (leBytes 4 w.toNat)
  rw [leBytes_length] at h
  rw [Memory.readWord, Memory.writeWord, h]
  simp [leNat_leBytes 4 w.toNat (by have := w.isLt; omega)]

/-- x[i] after a write of BRi. -/
theorem State.readBr_writeBr_same {s t : State} {i v : Nat} (hp : t.params = s.params)
    (hm : t.mem = s.mem.writeBr s.params i v) (hv : v < 2 ^ s.params.maxBits) : t.readBr i = v := by
  have h := Memory.readBytes_splice_same s.mem (brOffset i) (leBytes (4 * s.params.maxWords) v)
  rw [leBytes_length] at h
  rw [State.readBr, State.brBytes, hp, hm, Memory.writeBr, h]
  exact leNat_leBytes _ _ (by rw [pow_brBytes]; exact hv)

/-- The other registers after a write of BRi. -/
theorem Memory.readBytes_writeBr_other (p : Params) (m : Memory) {i k : Nat} (v : Nat) (h : k ≠ i) :
    (m.writeBr p i v).readBytes (4 * p.maxWords) (brOffset k) = m.readBytes (4 * p.maxWords) (brOffset k) := by
  refine Memory.readBytes_splice_disjoint ?_
  have := p.maxWords_le
  simp only [leBytes_length, brOffset]
  omega

theorem Memory.readBytes_writeBrs_other (p : Params) (m : Memory) {k : Nat} (ws : List (Nat × Nat))
    (h : ∀ w ∈ ws, k ≠ w.1) :
    (m.writeBrs p ws).readBytes (4 * p.maxWords) (brOffset k) = m.readBytes (4 * p.maxWords) (brOffset k) := by
  induction ws generalizing m with
  | nil => rfl
  | cons w ws ih =>
    rw [Memory.writeBrs, ih _ fun x hx => h x (List.mem_cons_of_mem _ hx),
      Memory.readBytes_writeBr_other p m _ (h w (List.mem_cons_self ..))]

/-- Reading a byte outside the written registers. -/
theorem Memory.read_writeBrs_of_outside (p : Params) (m : Memory) (ws : List (Nat × Nat)) {a : Nat}
    (h : ∀ w ∈ ws, a < brOffset w.1 ∨ brOffset w.1 + 4 * p.maxWords ≤ a) : (m.writeBrs p ws).read a = m.read a := by
  induction ws generalizing m with
  | nil => rfl
  | cons w ws ih =>
    rw [Memory.writeBrs, ih _ fun x hx => h x (List.mem_cons_of_mem _ hx), Memory.writeBr,
      Memory.read_splice_of_outside (by simpa using h w (List.mem_cons_self ..))]

/-- x[i] is a W-bit number. -/
theorem State.readBr_lt (s : State) (i : Nat) : s.readBr i < 2 ^ s.params.maxBits := by
  have := leNat_lt (s.mem.readBytes s.brBytes (brOffset i))
  rwa [Memory.readBytes_length, State.brBytes, pow_brBytes] at this

/-- x[i] depends only on BRi's bytes. -/
theorem State.readBr_congr {s t : State} {i : Nat} (hp : t.params = s.params)
    (h : ∀ a, brOffset i ≤ a → a < brOffset i + s.brBytes → t.mem.read a = s.mem.read a) : t.readBr i = s.readBr i := by
  have hb : t.brBytes = s.brBytes := by simp [State.brBytes, hp]
  rw [State.readBr, State.readBr, hb, Memory.readBytes_congr h]

/-! ### Written bits -/

theorem State.written_eq (s : State) (i j : Nat) : s.written i j = s.writtenBits.getLsbD (128 * i + j) := rfl

/-- The bits after a host write: the written word's bit is set, the others are as before. -/
theorem WrittenBits.markWord_get (b : WrittenBits) {i j k l : Nat} (hk : k < 16) (hj : j < 128) (hl : l < 128) :
    (b.markWord i j).getLsbD (128 * k + l) = (b.getLsbD (128 * k + l) || decide (k = i ∧ l = j)) := by
  rw [WrittenBits.markWord, writtenBit, BitVec.getLsbD_or, BitVec.getLsbD_twoPow]
  congr 1
  rw [← Bool.decide_and]
  exact decide_eq_decide.mpr (by omega)

/-- The bits after the write of a register: each of its words that holds bits is written, the others are as before. -/
theorem WrittenBits.markBr_get (p : Params) (b : WrittenBits) {i k l : Nat} (hk : k < 16) (hl : l < 128) :
    (b.markBr p i).getLsbD (128 * k + l) = (b.getLsbD (128 * k + l) || decide (k = i ∧ l < p.maxWords)) := by
  have := p.maxWords_le
  rw [WrittenBits.markBr, writtenBit, BitVec.getLsbD_or, BitVec.getLsbD_shiftLeft, BitVec.getLsbD_setWidth,
    BitVec.getLsbD_allOnes]
  congr 1
  simp only [← decide_not, ← Bool.decide_and]
  exact decide_eq_decide.mpr (by omega)

/-- The bits after a commit. -/
theorem WrittenBits.markBrs_get (p : Params) (b : WrittenBits) (ws : List (Nat × Nat)) {k l : Nat} (hk : k < 16)
    (hl : l < 128) :
    (b.markBrs p ws).getLsbD (128 * k + l) =
      (b.getLsbD (128 * k + l) || decide (k ∈ ws.map Prod.fst ∧ l < p.maxWords)) := by
  induction ws generalizing b with
  | nil => simp [WrittenBits.markBrs]
  | cons w ws ih =>
    rw [WrittenBits.markBrs, ih, WrittenBits.markBr_get p b hk hl, Bool.or_assoc, ← Bool.decide_or]
    congr 1
    refine decide_eq_decide.mpr ?_
    simp only [List.map_cons, List.mem_cons]
    tauto

theorem State.fullyWritten_iff {s : State} {i : Nat} :
    s.fullyWritten i = true ↔ ∀ j < s.params.maxWords, s.written i j = true := by
  simp [State.fullyWritten]

end Sys2Proof.Machine
end

