-- ==== Sys2Proof/Laws/Numbers.lean ====
section
/-! SUPPORT. The number helpers: bit lengths, saturating counters, draws, and how far the bounded loops reach. -/

namespace Sys2Proof.Machine

/-! ### bitlen -/

theorem lt_two_pow_bitLen (v : Nat) : v < 2 ^ bitLen v := by
  unfold bitLen
  split
  · simp_all
  · exact Nat.lt_log2_self

theorem bitLen_le_of_lt {v k : Nat} (h : v < 2 ^ k) : bitLen v ≤ k := by
  unfold bitLen
  split
  · omega
  · next hv => exact Nat.succ_le_of_lt ((Nat.log2_lt hv).mpr h)

theorem two_pow_le_of_bitLen {v k : Nat} (h : k < bitLen v) : 2 ^ k ≤ v := by
  by_contra hv
  exact absurd (bitLen_le_of_lt (Nat.lt_of_not_le hv)) (by omega)

/-- Halving a positive number takes one bit off its length. -/
theorem bitLen_half {v : Nat} (h : v ≠ 0) : bitLen (v / 2) + 1 ≤ bitLen v := by
  have h1 : bitLen v ≠ 0 := by simp [bitLen, h]
  obtain ⟨k, hk⟩ : ∃ k, bitLen v = k + 1 := ⟨bitLen v - 1, by omega⟩
  have h2 := lt_two_pow_bitLen v
  rw [hk, Nat.pow_succ] at h2
  have := bitLen_le_of_lt (v := v / 2) (k := k) (by omega)
  omega

theorem bitLen_mono {v w : Nat} (h : v ≤ w) : bitLen v ≤ bitLen w :=
  bitLen_le_of_lt (Nat.lt_of_le_of_lt h (lt_two_pow_bitLen w))

/-! ### Counters -/

theorem satInc_toNat (c : Word) : (satInc c).toNat = min (c.toNat + 1) 0xFFFFFFFF := by
  simp only [satInc, BitVec.toNat_ofNat]
  omega

/-! ### Draws -/

/-- A draw lies in its interval whatever the source answers (00_scope.md R13). -/
theorem drawIn_mem {lo hi : Nat} (raw : Nat) (h : lo ≤ hi) : lo ≤ drawIn lo hi raw ∧ drawIn lo hi raw ≤ hi := by
  unfold drawIn
  split
  · assumption
  · have := Nat.mod_lt raw (show 0 < hi - lo + 1 by omega)
    omega

/-- Every value of the interval is the draw of itself (00_scope.md R13). -/
theorem drawIn_self {lo hi v : Nat} (h1 : lo ≤ v) (h2 : v ≤ hi) : drawIn lo hi v = v := if_pos ⟨h1, h2⟩

theorem Source.draw_mem (u : UnitId) {lo hi : Nat} (src : Source) (h : lo ≤ hi) :
    lo ≤ (src.draw u lo hi).1 ∧ (src.draw u lo hi).1 ≤ hi := drawIn_mem _ h

/-- The candidate interval is not empty from b = 2 on (43_prime_generator.md R86). -/
theorem candLo_le_candHi {b : Nat} (h : 2 ≤ b) : candLo b ≤ candHi b := by
  obtain ⟨k, rfl⟩ : ∃ k, b = k + 2 := ⟨b - 2, by omega⟩
  have h1 : (2 : Nat) ^ (k + 2) = 4 * 2 ^ k := by rw [Nat.pow_add]; omega
  have h2 : (2 : Nat) ^ (k + 1) = 2 * 2 ^ k := by rw [Nat.pow_add]; omega
  have h3 : 0 < (2 : Nat) ^ k := Nat.two_pow_pos k
  simp only [candLo, candHi, show k + 2 - 1 = k + 1 from rfl]
  omega

/-! ### The bounded loops reach their ends -/

/-- STEIN's loop ends with equal operands: each pass shortens one of them by a bit (41_number_theory.md R70). -/
theorem steinLoop_ends (fuel : Nat) (t : NtScratch) (ha : 1 ≤ t.a) (hb : 1 ≤ t.b) (h : bitLen t.a + bitLen t.b ≤ fuel) :
    (NtScratch.steinLoop fuel t).a = (NtScratch.steinLoop fuel t).b := by
  induction fuel generalizing t with
  | zero =>
    have : bitLen t.a ≠ 0 := by simp [bitLen]; omega
    omega
  | succ fuel ih =>
    rw [NtScratch.steinLoop]
    split
    · assumption
    · next hne =>
      have hA := bitLen_half (v := t.a) (by omega)
      have hB := bitLen_half (v := t.b) (by omega)
      have hAd := bitLen_mono (show (t.a - t.b) / 2 ≤ t.a / 2 by omega)
      have hBd := bitLen_mono (show (t.b - t.a) / 2 ≤ t.b / 2 by omega)
      unfold NtScratch.steinStep
      split_ifs <;> refine ih _ ?_ ?_ ?_ <;> dsimp only <;> omega

/-- The Euclidean loop ends with r1 = 0: two passes shorten r1 by a bit (41_number_theory.md R72). -/
theorem euclidLoop_ends (fuel : Nat) (t : NtScratch)
    (h : t.r1 = 0 ∨ (t.r1 < t.r0 ∧ bitLen t.r0 + bitLen t.r1 ≤ fuel)) : (NtScratch.euclidLoop fuel t).r1 = 0 := by
  induction fuel generalizing t with
  | zero =>
    rcases h with h | ⟨h1, h2⟩
    · exact h
    · have : bitLen t.r0 ≠ 0 := by simp [bitLen]; omega
      omega
  | succ fuel ih =>
    rw [NtScratch.euclidLoop]
    split
    · assumption
    · next hr =>
      rcases h with h | ⟨h1, h2⟩
      · exact absurd h hr
      · refine ih _ ?_
        have hq : t.r0 - t.r0 / t.r1 * t.r1 = t.r0 % t.r1 := by
          have := Nat.div_add_mod t.r0 t.r1
          rw [Nat.mul_comm] at this
          omega
        simp only [NtScratch.euclidStep, hq]
        right
        have hm := Nat.mod_lt t.r0 (show 0 < t.r1 by omega)
        have hhalf : t.r0 % t.r1 ≤ t.r0 / 2 := by
          rcases Nat.lt_or_ge (t.r0 / 2) t.r1 with hlt | hge
          · have hd : t.r0 / t.r1 = 1 := by
              apply Nat.le_antisymm
              · exact Nat.le_of_lt_succ (Nat.div_lt_of_lt_mul (by omega))
              · exact Nat.div_pos (by omega) (by omega)
            have := Nat.div_add_mod t.r0 t.r1
            rw [hd] at this
            omega
          · omega
        have h3 := bitLen_mono hhalf
        have h4 := bitLen_half (v := t.r0) (by omega)
        exact ⟨hm, by omega⟩

/-- MODINVF's loop ends with r1 = 0 within the fuel it is given (41_number_theory.md R72). -/
theorem euclidScratch_ends (a m : Nat) (hm : 1 ≤ m) : (euclidScratch a m).r1 = 0 := by
  unfold euclidScratch
  rw [NtScratch.euclidLoop, if_neg (by simp; omega)]
  refine euclidLoop_ends _ _ ?_
  have hlt := Nat.mod_lt a (show 0 < m by omega)
  have h0 : a % m / m = 0 := Nat.div_eq_of_lt hlt
  simp only [NtScratch.euclidStep, NtScratch.empty, h0]
  right
  have := bitLen_mono (Nat.le_of_lt hlt)
  exact ⟨by simpa using hlt, by simp only [Nat.zero_mul, Nat.sub_zero]; omega⟩

/-- The squaring loop's fuel does not show: with d ≥ 1 it ends by its own test (42_primality.md R79). -/
theorem squareLoop_fuel (f g : Nat) (t : Tester) (hf : t.n - 1 ≤ 2 ^ f * t.d) (hg : t.n - 1 ≤ 2 ^ g * t.d) :
    Tester.squareLoop f t = Tester.squareLoop g t := by
  induction f generalizing g t with
  | zero =>
    cases g with
    | zero => rfl
    | succ g => rw [Tester.squareLoop, Tester.squareLoop, if_neg (by simpa using hf)]
  | succ f ih =>
    cases g with
    | zero => rw [Tester.squareLoop, Tester.squareLoop, if_neg (by simpa using hg)]
    | succ g =>
      rw [Tester.squareLoop, Tester.squareLoop]
      have e : ∀ k, 2 ^ k * (2 * t.d) = 2 ^ (k + 1) * t.d := fun k => by rw [Nat.pow_succ, Nat.mul_assoc]
      have := ih g { t with x := t.x * t.x % t.n, d := 2 * t.d } (by rw [e]; exact hf) (by rw [e]; exact hg)
      simp only [this]

end Sys2Proof.Machine
end

