-- ==== Sys2Proof/Laws/Ops.lean ====
section
/-! SUPPORT. What the shared operations can do, said once: the issue of a command, the two phases of exec, a search step,
the choice of an agent and one step of the machine. -/

namespace Sys2Proof

/-! ### The parts of a command's meaning -/

/-- The source form of a command. -/
def Instr.sources : Instr → Machine.Sources
  | .modexp _ rs1 rs2 rs3 => .f4 rs1 rs2 rs3
  | .gcd _ rs1 rs2 => .f3 rs1 rs2
  | .lcm _ rs1 rs2 => .f3 rs1 rs2
  | .modinv _ rs1 rs2 => .f3 rs1 rs2
  | .mrRound _ rs1 rs2 => .f3 rs1 rs2
  | .mrRoundW _ rs1 rs2 rs3 => .f4 rs1 rs2 rs3
  | .isPrime _ rs1 => .f2 rs1
  | .genPrime _ => .f1
  | .keygen => .f0
  | .rsaep _ rs1 rs2 rs3 => .f4 rs1 rs2 rs3

/-- The domain check of a command (50_host_interface.md R106). -/
def Instr.outside (p : Params) : Instr → Machine.Latch → Bool
  | .modexp _ _ _ _ => Machine.modexpOutside
  | .gcd _ _ _ => Machine.gcdOutside
  | .lcm _ _ _ => Machine.gcdOutside
  | .modinv _ _ _ => Machine.modinvOutside
  | .mrRound _ _ _ => Machine.mrRoundOutside
  | .mrRoundW _ _ _ _ => Machine.mrRoundWOutside
  | .isPrime _ _ => Machine.isPrimeOutside
  | .genPrime _ => Machine.genPrimeOutside p
  | .keygen => Machine.keygenOutside p
  | .rsaep _ _ _ _ => Machine.rsaepOutside

/-- How a command starts once it is issued (50_host_interface.md R106). -/
def Instr.start : Instr → Machine.State → Machine.State
  | .modexp _ _ _ _ => Machine.State.startExec
  | .gcd _ _ _ => Machine.State.startExec
  | .lcm _ _ _ => Machine.State.startExec
  | .modinv _ _ _ => Machine.State.startExec
  | .mrRound _ _ _ => Machine.State.startExec
  | .mrRoundW _ _ _ _ => Machine.State.startExec
  | .isPrime _ _ => Machine.State.startExec
  | .genPrime _ => Machine.State.startGenPrime
  | .keygen => Machine.State.enterSearching
  | .rsaep _ _ _ _ => Machine.State.startExec

/-- The sequencer's step of a running command (50_host_interface.md R108). -/
def Instr.run : Instr → Machine.State → Machine.State
  | .modexp rd _ _ _ => Machine.runModexp rd
  | .gcd rd _ _ => Machine.runGcd rd
  | .lcm rd _ _ => Machine.runLcm rd
  | .modinv rd _ _ => Machine.runModinv rd
  | .mrRound rd _ _ => Machine.runMrRound rd
  | .mrRoundW rd _ _ _ => Machine.runMrRoundW rd
  | .isPrime rd _ => Machine.runIsPrime rd
  | .genPrime rd => Machine.runGenPrime rd
  | .keygen => Machine.runKeygen
  | .rsaep rd _ _ _ => Machine.runRsaep rd

end Sys2Proof

namespace Sys2Proof.Machine

/-! ### exec -/

/-- exec in one equation: the issue where the block is idle, else the sequencer's step. -/
theorem exec_eq (i : Instr) (s : State) :
    exec i s = if s.status.busy then .next (i.run s) else s.issue i.sources (i.outside s.params) i.start := by
  cases i <;> rfl

theorem exec_of_busy {s : State} (i : Instr) (h : s.status.busy = true) : exec i s = .next (i.run s) := by
  rw [exec_eq, if_pos h]

theorem exec_of_idle {s : State} (i : Instr) (h : s.status.busy = false) :
    exec i s = s.issue i.sources (i.outside s.params) i.start := by
  rw [exec_eq, if_neg (by simp [h])]

/-- Everything an issue can do (50_host_interface.md R106, R107). -/
theorem State.issue_cases {src : Sources} {outside : Latch → Bool} {start : State → State} {s t : State}
    (h : s.issue src outside start = .next t) :
    (outside (src.latch s) = true ∧ t = (s.latched src).completeError .domain) ∨
    (outside (src.latch s) = false ∧ t = start (s.latched src)) := by
  unfold State.issue at h
  split at h <;> simp only [Host.Outcome.next.injEq] at h
  · next ho => exact .inl ⟨ho, h.symm⟩
  · next ho => exact .inr ⟨by simpa using ho, h.symm⟩

/-- An issue in the command's domain starts it. -/
theorem State.issue_starts {src : Sources} {outside : Latch → Bool} {start : State → State} {s : State}
    (ho : outside (src.latch s) = false) : s.issue src outside start = .next (start (s.latched src)) := by
  simp [State.issue, ho]

/-- An issue outside the command's domain is a DOMAIN error completion. -/
theorem State.issue_domain {src : Sources} {outside : Latch → Bool} {start : State → State} {s : State}
    (ho : outside (src.latch s) = true) :
    s.issue src outside start = .next ((s.latched src).completeError .domain) := by
  simp [State.issue, ho]

/-- What the latch holds besides the operands (10_state.md R36). -/
theorem Sources.latch_scalars (s : State) (src : Sources) :
    (src.latch s).bits = s.bitsize.toNat ∧ (src.latch s).candCap = s.candCap.toNat ∧
    (src.latch s).restartCap = s.restartCap.toNat := by
  cases src <;> exact ⟨rfl, rfl, rfl⟩

/-- The latched operands are W-bit numbers. -/
theorem Sources.latch_fits (s : State) (src : Sources) :
    (src.latch s).op1 < 2 ^ s.params.maxBits ∧ (src.latch s).op2 < 2 ^ s.params.maxBits ∧
    (src.latch s).op3 < 2 ^ s.params.maxBits := by
  have h0 : 0 < 2 ^ s.params.maxBits := Nat.two_pow_pos _
  cases src
  · exact ⟨s.readBr_lt _, s.readBr_lt _, s.readBr_lt _⟩
  · exact ⟨s.readBr_lt _, s.readBr_lt _, h0⟩
  · exact ⟨s.readBr_lt _, h0, h0⟩
  · exact ⟨h0, h0, h0⟩
  · exact ⟨h0, h0, h0⟩

/-- The registers a command's source form names are its source registers. -/
theorem Instr.sources_regs (i : Instr) : i.sources.regs = i.sourceRegs := by cases i <;> rfl

/-- An issue meets an unwritten word exactly when a source register has one. -/
theorem Instr.meetsUnwritten_iff {i : Instr} {s : State} :
    i.sources.meetsUnwritten s = true ↔ ∃ k ∈ i.sourceRegs, ∃ j < s.params.maxWords, s.written k j = false := by
  rw [Sources.meetsUnwritten, Instr.sources_regs, List.any_eq_true]
  refine exists_congr fun k => and_congr_right fun _ => ?_
  rw [Bool.not_eq_true', ← Bool.not_eq_true, State.fullyWritten_iff]
  simp

/-- Every way a running command's sequencer step can go: it waits, ends with a commit, ends with an error, or moves the
KEYGEN FSM on. `s'` is `s` with only hidden registers and RNG0 moved. -/
theorem Instr.run_cases (i : Instr) (s : State) :
    (i.run s = s) ∨
    (∃ e, e ≠ .noError ∧ i.run s = s.completeError e) ∨
    (∃ rd v r src, i ≠ .keygen ∧ i.destRegs = [rd] ∧ i.run s = (s.setRng .u0 src).commit [(rd, v)] r) ∨
    (i = .keygen ∧ s.status.state = .done ∧ i.run s = s.commit s.seq.key.results false) ∨
    (i = .keygen ∧ ∃ st k t, i.run s = (s.setNt t).moveTo st k) ∨
    (i = .keygen ∧ ∃ st k, i.run s = s.stopUnits.moveTo st k) ∨
    (i = .keygen ∧ ∃ k t, i.run s = keygenRestart k (s.setNt t)) := by
  have commits : ∀ {rd v : Nat} {r : Bool} (j : Instr), j ≠ .keygen → j.destRegs = [rd] → j.run s = s.commit [(rd, v)] r →
      ∃ rd v r src, j ≠ .keygen ∧ j.destRegs = [rd] ∧ j.run s = (s.setRng .u0 src).commit [(rd, v)] r :=
    fun {rd v r} j h1 h2 h3 => ⟨rd, v, r, s.rng0, h1, h2, h3⟩
  cases i with
  | modexp rd _ _ _ => exact .inr (.inr (.inl (commits _ nofun rfl rfl)))
  | gcd rd _ _ => exact .inr (.inr (.inl ⟨rd, _, false, s.rng0, nofun, rfl, rfl⟩))
  | lcm rd _ _ =>
    dsimp only [Instr.run]; unfold runLcm
    split
    · exact .inr (.inl ⟨.overflow, nofun, rfl⟩)
    · exact .inr (.inr (.inl ⟨rd, _, false, s.rng0, nofun, rfl, rfl⟩))
  | modinv rd _ _ =>
    dsimp only [Instr.run]; unfold runModinv
    split
    · exact .inr (.inr (.inl ⟨rd, _, false, s.rng0, nofun, rfl, rfl⟩))
    · exact .inr (.inl ⟨.notCoprime, nofun, rfl⟩)
  | mrRound rd _ _ => exact .inr (.inr (.inl ⟨rd, _, _, _, nofun, rfl, rfl⟩))
  | mrRoundW rd _ _ _ => exact .inr (.inr (.inl (commits _ nofun rfl rfl)))
  | isPrime rd _ => exact .inr (.inr (.inl ⟨rd, _, _, _, nofun, rfl, rfl⟩))
  | genPrime rd =>
    dsimp only [Instr.run]; unfold runGenPrime
    split
    · exact .inr (.inl ⟨.attemptCap, nofun, rfl⟩)
    · split
      · exact .inr (.inr (.inl ⟨rd, _, false, s.rng0, nofun, rfl, rfl⟩))
      · exact .inl rfl
  | rsaep rd _ _ _ => exact .inr (.inr (.inl (commits _ nofun rfl rfl)))
  | keygen =>
    dsimp only [Instr.run]; unfold runKeygen
    split
    · unfold keygenJoin
      split
      · exact .inr (.inl ⟨.attemptCap, nofun, rfl⟩)
      · split
        · exact .inr (.inr (.inr (.inr (.inr (.inl ⟨rfl, _, _, rfl⟩)))))
        · exact .inl rfl
    · exact .inr (.inr (.inr (.inr (.inl ⟨rfl, _, _, _, rfl⟩))))
    · unfold keygenValidate
      dsimp only
      split
      · split
        · exact .inr (.inl ⟨.attemptCap, nofun, rfl⟩)
        · exact .inr (.inr (.inr (.inr (.inr (.inr ⟨rfl, _, _, rfl⟩)))))
      · exact .inr (.inr (.inr (.inr (.inl ⟨rfl, _, _, _, rfl⟩))))
    · unfold keygenPrivate
      dsimp only
      split
      · exact .inr (.inl ⟨.notCoprime, nofun, rfl⟩)
      · split
        · exact .inr (.inl ⟨.notCoprime, nofun, rfl⟩)
        · exact .inr (.inr (.inr (.inr (.inl ⟨rfl, _, _, _, rfl⟩))))
    · next h => exact .inr (.inr (.inr (.inl ⟨rfl, h, rfl⟩)))
    · exact .inl rfl
    · exact .inl rfl

/-- Everything exec can have done: a DOMAIN completion or the start of the command where the block was idle, the sequencer's
step of it where it was busy. -/
theorem exec_cases {i : Instr} {s t : State} (h : exec i s = .next t) :
    (s.status.busy = false ∧
      ((i.outside s.params (i.sources.latch s) = true ∧ t = (s.latched i.sources).completeError .domain) ∨
        (i.outside s.params (i.sources.latch s) = false ∧ t = i.start (s.latched i.sources)))) ∨
    (s.status.busy = true ∧ t = i.run s) := by
  by_cases hb : s.status.busy = true
  · rw [exec_of_busy i hb] at h
    simp only [Host.Outcome.next.injEq] at h
    exact .inr ⟨hb, h.symm⟩
  · have hb : s.status.busy = false := by simpa using hb
    rw [exec_of_idle i hb] at h
    exact .inl ⟨hb, State.issue_cases h⟩

/-- exec always answers a next state. -/
theorem exec_next (i : Instr) (s : State) : ∃ t, exec i s = .next t := by
  rw [exec_eq]
  split
  · exact ⟨_, rfl⟩
  · unfold State.issue
    split <;> exact ⟨_, rfl⟩

/-! ### The units -/

/-- Everything a unit's step can do: report the cap, or try one candidate of its interval (43_prime_generator.md R87). -/
theorem State.searchStep_cases (u : UnitId) (s : State) :
    (s.latch.candCap ≠ 0 ∧ (s.cntPg u).toNat = s.latch.candCap ∧
      s.searchStep u = s.setUnit u { s.unit u with gen := { (s.unit u).gen with fail := true } }) ∨
    (¬(s.latch.candCap ≠ 0 ∧ (s.cntPg u).toNat = s.latch.candCap) ∧
      ∃ w t, w = (s.rng u).draw u (candLo (s.unit u).gen.b) (candHi (s.unit u).gen.b) ∧
        t = primeTest u w.1 w.2 ∧
        s.searchStep u = ((s.countCandidate u).setRng u t.src).setUnit u ((s.unit u).tried w.1 t)) := by
  by_cases h : s.latch.candCap ≠ 0 ∧ (s.cntPg u).toNat = s.latch.candCap
  · exact .inl ⟨h.1, h.2, by unfold State.searchStep; exact if_pos h⟩
  · exact .inr ⟨h, _, _, rfl, rfl, by unfold State.searchStep; exact if_neg h⟩

/-- A search step leaves all but its own unit, counter and source as it was. -/
theorem State.searchStep_frame (u : UnitId) (s : State) :
    (s.searchStep u).params = s.params ∧ (s.searchStep u).mem = s.mem ∧
    (s.searchStep u).writtenBits = s.writtenBits ∧ (s.searchStep u).unwrittenRead = s.unwrittenRead ∧ (s.searchStep u).cmd = s.cmd ∧
    (s.searchStep u).status = s.status ∧ (s.searchStep u).irqEn = s.irqEn ∧ (s.searchStep u).irq = s.irq ∧
    (s.searchStep u).cntRestart = s.cntRestart ∧ (s.searchStep u).latch = s.latch ∧ (s.searchStep u).seq = s.seq := by
  unfold State.searchStep
  dsimp only
  split <;> simp

/-! ### One step of the machine -/

/-- The choice of an agent moves nothing but the turns and the count of free choices, and names an enabled agent. -/
theorem State.choose_cases (a : Agent) (as : List Agent) (s : State) :
    (s.choose a as).1 ∈ a :: as ∧
    ∃ ts k, (s.choose a as).2 = { s with turns := ts, schedTaken := k } := by
  have free : ∀ s : State, (s.chooseFree a as).1 ∈ a :: as ∧
      ∃ k, (s.chooseFree a as).2 = { s with schedTaken := k } := by
    intro s
    cases as with
    | nil => exact ⟨by simp [State.chooseFree], s.schedTaken, rfl⟩
    | cons b bs =>
      refine ⟨?_, s.schedTaken + 1, rfl⟩
      simp only [State.chooseFree]
      rw [List.getD_eq_getElem?_getD]
      have hlt : Config.schedule s.schedTaken % ((b :: bs).length + 1) < (a :: b :: bs).length :=
        Nat.mod_lt _ (by simp)
      rw [List.getElem?_eq_getElem hlt]
      exact List.getElem_mem _
  unfold State.choose
  split
  · obtain ⟨h1, k, h2⟩ := free s
    exact ⟨h1, s.turns, k, h2⟩
  · next t ts _ =>
    split
    · next ht => exact ⟨ht, ts, s.schedTaken, rfl⟩
    · obtain ⟨h1, k, h2⟩ := free { s with turns := ts }
      exact ⟨h1, ts, k, h2⟩

/-- A step is the step of one enabled agent, or nothing where none is enabled. -/
theorem step_cases (s : State) :
    (s.enabled = [] ∧ step s = .next s) ∨
    ∃ a ts k, a ∈ s.enabled ∧ step s = ({ s with turns := ts, schedTaken := k } : State).agentStep a := by
  unfold step State.advance
  split
  · next h => exact .inl ⟨h, rfl⟩
  · next a as h =>
    obtain ⟨h1, ts, k, h2⟩ := State.choose_cases a as s
    exact .inr ⟨_, ts, k, h ▸ h1, by rw [h2]⟩

theorem State.mem_enabled {s : State} {a : Agent} : a ∈ s.enabled ↔ s.agentEnabled a = true := by
  rw [State.enabled, List.mem_filter]
  refine ⟨fun h => h.2, fun h => ⟨?_, h⟩⟩
  cases a with
  | unit u => cases u <;> simp
  | _ => simp

end Sys2Proof.Machine
end

