-- ==== Sys2Proof/Laws/PerInstr.lean ====
section
/-! SUPPORT. What holds of every command as syntax, one lemma per constructor. Family EncodeFields: the six fields of a
well-formed command's word are its opcode, its indexes in the order RD, RS1, RS2, RS3 with 0 for an unused one, and a zero
RSV (30_encoding.md R56, R57). -/

namespace Sys2Proof.Laws.EncodeFields

/-- The six fields of the word of a well-formed command. -/
def Statement (i : Instr) : Prop :=
  i.WellFormed →
    field (encode i) 0 8 = i.opcode.code ∧ field (encode i) 8 4 = i.indexes.getD 0 0 ∧
    field (encode i) 12 4 = i.indexes.getD 1 0 ∧ field (encode i) 16 4 = i.indexes.getD 2 0 ∧
    field (encode i) 20 4 = i.indexes.getD 3 0 ∧ field (encode i) 24 8 = 0

/-- The shared proof of the family. -/
theorem of_assemble (i : Instr) : Statement i := fun h =>
  encode_eq_assemble i ▸
    field_assemble i.opcode.code_lt (h.getD_lt 0) (h.getD_lt 1) (h.getD_lt 2) (h.getD_lt 3)

theorem modexp (rd rs1 rs2 rs3 : Nat) : Statement (.modexp rd rs1 rs2 rs3) := of_assemble _
theorem gcd (rd rs1 rs2 : Nat) : Statement (.gcd rd rs1 rs2) := of_assemble _
theorem lcm (rd rs1 rs2 : Nat) : Statement (.lcm rd rs1 rs2) := of_assemble _
theorem modinv (rd rs1 rs2 : Nat) : Statement (.modinv rd rs1 rs2) := of_assemble _
theorem mrRound (rd rs1 rs2 : Nat) : Statement (.mrRound rd rs1 rs2) := of_assemble _
theorem mrRoundW (rd rs1 rs2 rs3 : Nat) : Statement (.mrRoundW rd rs1 rs2 rs3) := of_assemble _
theorem isPrime (rd rs1 : Nat) : Statement (.isPrime rd rs1) := of_assemble _
theorem genPrime (rd : Nat) : Statement (.genPrime rd) := of_assemble _
theorem keygen : Statement .keygen := of_assemble _
theorem rsaep (rd rs1 rs2 rs3 : Nat) : Statement (.rsaep rd rs1 rs2 rs3) := of_assemble _

end Sys2Proof.Laws.EncodeFields
end

