-- ==== Sys2Proof/Laws/Window.lean ====
section
/-! SUPPORT. What one host access can do, said once: an access at an offset of the window, and every way an access that
answers a next state can have changed the block. -/

namespace Sys2Proof.Machine

theorem State.selects_offset {s : State} {off : Nat} (h : off < 0x3000) : s.selects (s.params.base + off) = true := by
  exact decide_eq_true (by simp only [windowSize]; omega)

theorem State.aligned_offset (s : State) (off width : Nat) :
    s.aligned (s.params.base + off) width = decide (width = 4 ∧ off % 4 = 0) := by
  simp [State.aligned]

/-- Word j of BRi stands at its offset (20_memory.md R43). -/
theorem placeAt_wordOffset {i j : Nat} (hi : i < 16) (hj : j < 128) : placeAt (wordOffset i j) = .br i j := by
  have e1 : (512 * i + 4 * j) / 512 = i := by omega
  have e2 : (512 * i + 4 * j) % 512 / 4 = j := by omega
  have e3 : 4096 + 512 * i + 4 * j - 4096 = 512 * i + 4 * j := by omega
  simp only [placeAt, wordOffset, e3]
  repeat rw [if_neg (by omega)]
  rw [e1, e2]

/-- The layout, read offset by offset: what holds of every register at its own offset, of the hole and of the big-register
words holds of whatever stands at an offset (10_state.md R23, 20_memory.md R42, R43). -/
theorem placeAt_induction {P : Nat → Place → Prop} (off : Nat)
    (h : ∀ c ∈ ([(0x000, .id), (0x004, .param), (0x008, .cmd), (0x00C, .status), (0x010, .ctrl), (0x014, .bitsize),
      (0x018, .irq), (0x01C, .attemptCap), (0x020, .cntPg0), (0x024, .cntPg1), (0x028, .cntRestart)] : List (Nat × Place)),
      P c.1 c.2)
    (hole : P off .hole) (br : 0x1000 ≤ off → P off (.br ((off - 0x1000) / 0x200) ((off - 0x1000) % 0x200 / 4))) :
    P off (placeAt off) := by
  unfold placeAt
  iterate 11
    refine iteInduction (motive := P off) (fun c => ?_) (fun _ => ?_)
    · exact c ▸ h (_, _) (by simp)
  exact iteInduction (motive := P off) (fun _ => hole) (fun c => br (by omega))

/-- A big-register word is at no other offset than its own. -/
theorem eq_wordOffset_of_placeAt {off i j : Nat} (ho : off < 0x3000) (h4 : off % 4 = 0) (h : placeAt off = .br i j) :
    i < 16 ∧ off = wordOffset i j := by
  revert h
  refine placeAt_induction (P := fun o p => p = .br i j → i < 16 ∧ o = wordOffset i j) off ?_ nofun ?_
  · simp
  · intro hb h
    simp only [Place.br.injEq] at h
    obtain ⟨rfl, rfl⟩ := h
    simp only [wordOffset]
    omega

/-- An aligned 32-bit read of the window. -/
theorem State.perform_readAt {s : State} {off : Nat} (h : off < 0x3000) (h4 : off % 4 = 0) :
    s.perform (s.readAt off) =
      .next ((s.noteUnwritten (s.unwrittenPlace (placeAt off))).answer (.data (s.readPlace (placeAt off)))) := by
  simp [State.readAt, State.perform, State.selects_offset h, State.aligned_offset, h4]

/-- An aligned 32-bit write of the window. -/
theorem State.perform_writeAt {s : State} {off : Nat} {w : Word} (h : off < 0x3000) (h4 : off % 4 = 0) :
    s.perform (s.writeAt off w) = (s.answer .written).writePlace w (placeAt off) := by
  simp [State.writeAt, State.perform, State.selects_offset h, State.aligned_offset, h4]

/-- The offset of each register that a write can reach. -/
theorem offset_of_placeAt {off : Nat} :
    (placeAt off = .cmd → off = 0x008) ∧ (placeAt off = .ctrl → off = 0x010) ∧ (placeAt off = .irq → off = 0x018) ∧
    (placeAt off = .bitsize → off = 0x014) ∧ (placeAt off = .attemptCap → off = 0x01C) :=
  placeAt_induction (P := fun o p => (p = .cmd → o = 0x008) ∧ (p = .ctrl → o = 0x010) ∧ (p = .irq → o = 0x018) ∧
    (p = .bitsize → o = 0x014) ∧ (p = .attemptCap → o = 0x01C)) off (by simp) (by simp) (by simp)

/-- Only a stored word of a big register can be an unwritten one, and it stands at its own offset. -/
theorem State.unwrittenPlace_eq_true {s : State} {off : Nat} (ho : off < 0x3000) (h4 : off % 4 = 0) :
    s.unwrittenPlace (placeAt off) = true ↔
      ∃ i j, i < 16 ∧ j < s.params.maxWords ∧ off = wordOffset i j ∧ s.written i j = false := by
  constructor
  · intro h
    generalize hp : placeAt off = p at h
    cases p with
    | br i j =>
      obtain ⟨hi, he⟩ := eq_wordOffset_of_placeAt ho h4 hp
      simp only [State.unwrittenPlace, Bool.and_eq_true, decide_eq_true_eq, Bool.not_eq_true'] at h
      exact ⟨i, j, hi, h.1, he, h.2⟩
    | _ => simp [State.unwrittenPlace] at h
  · rintro ⟨i, j, hi, hj, rfl, hw⟩
    have := s.params.maxWords_le
    rw [placeAt_wordOffset hi (by omega)]
    simp [State.unwrittenPlace, hj, hw]

/-- An aligned 32-bit read below the big registers. -/
theorem State.perform_readAt_csr {s : State} {off : Nat} (h : off < 0x1000) (h4 : off % 4 = 0) :
    s.perform (s.readAt off) = .next (s.answer (.data (s.readPlace (placeAt off)))) := by
  have hu : s.unwrittenPlace (placeAt off) = false := by
    refine Bool.eq_false_iff.mpr fun hu => ?_
    obtain ⟨i, j, _, _, rfl, _⟩ := (State.unwrittenPlace_eq_true (by omega) h4).mp hu
    unfold wordOffset at h
    omega
  rw [State.perform_readAt (by omega) h4, hu, State.noteUnwritten_false]

/-- Every way an access that answers a next state can have changed the block (10_state.md R23 to R34, 20_memory.md R42 to
R48, 50_host_interface.md R106, R110, 70_reset_and_hazards.md R129). -/
theorem State.perform_cases {s t : State} {op : BusOp} (h : s.perform op = .next t) :
    (op = .hardReset ∧ t = s.hardReset) ∨
    (∃ r, t = s.answer r) ∨
    (∃ r i j, i < 16 ∧ j < s.params.maxWords ∧ op = s.readAt (wordOffset i j) ∧ s.written i j = false ∧
      t = (s.noteUnwritten true).answer r) ∨
    (s.status.busy = true ∧ t = (s.answer .written).dropWrite) ∨
    (∃ w, s.status.busy = false ∧ op = s.writeAt 0x008 w ∧
      ((∃ e, decode w = .error e ∧ t = ((s.answer .written).acceptWord w).completeError .illegalCmd) ∨
        ∃ i, decode w = .ok i ∧ exec i ((s.answer .written).acceptWord w) = .next t)) ∨
    (∃ w, op = s.writeAt 0x010 w ∧ t = (s.answer .written).writeCtrl w) ∨
    (∃ w, op = s.writeAt 0x018 w ∧ t = { s.answer .written with irq := s.irq.clear w }) ∨
    (∃ b, s.status.busy = false ∧ t = { s.answer .written with bitsize := b }) ∨
    (∃ c r, s.status.busy = false ∧ t = { s.answer .written with candCap := c, restartCap := r }) ∨
    (∃ i j w, s.status.busy = false ∧ i < 16 ∧ j < s.params.maxWords ∧ op = s.writeAt (wordOffset i j) w ∧
      t = { s.answer .written with
        mem := s.mem.writeWord (wordOffset i j) w, writtenBits := s.writtenBits.markWord i j }) := by
  have ignored : (.next (s.answer .written) : Outcome) = .next t → ∃ r, t = s.answer r := by
    intro h; simp only [Host.Outcome.next.injEq] at h; exact ⟨_, h.symm⟩
  cases op with
  | hardReset => simp only [State.perform, Host.Outcome.next.injEq] at h; exact .inl ⟨rfl, h.symm⟩
  | read addr width =>
    right
    simp only [State.perform] at h
    split_ifs at h with h1 h2
    · simp only [Host.Outcome.next.injEq] at h
      replace h1 := of_decide_eq_true h1
      obtain ⟨rfl, h4⟩ := of_decide_eq_true h2
      simp only [windowSize] at h1
      obtain ⟨off, rfl⟩ := Nat.exists_eq_add_of_le h1.1
      simp only [Nat.add_sub_cancel_left] at h h4
      cases hu : s.unwrittenPlace (placeAt off) with
      | false => exact .inl ⟨_, by rw [← h, hu, State.noteUnwritten_false]⟩
      | true =>
        obtain ⟨i, j, hi, hj, rfl, hw⟩ := (State.unwrittenPlace_eq_true (by omega) h4).mp hu
        exact .inr (.inl ⟨_, i, j, hi, hj, rfl, hw, by rw [← h, hu]⟩)
    all_goals (simp only [Host.Outcome.next.injEq] at h; exact .inl ⟨_, h.symm⟩)
  | write addr width w =>
    right
    simp only [State.perform] at h
    split_ifs at h with h1 h2
    · replace h1 := of_decide_eq_true h1
      obtain ⟨rfl, h4⟩ := of_decide_eq_true h2
      simp only [windowSize] at h1
      obtain ⟨off, rfl⟩ := Nat.exists_eq_add_of_le h1.1
      simp only [Nat.add_sub_cancel_left] at h h4
      have hop : BusOp.write (s.params.base + off) 4 w = s.writeAt off w := rfl
      obtain ⟨p1, p2, p3, p4, p5⟩ := offset_of_placeAt (off := off)
      rw [hop]
      generalize hp : placeAt off = p at h p1 p2 p3 p4 p5
      cases p with
      | id => exact .inl (ignored h)
      | param => exact .inl (ignored h)
      | status => exact .inl (ignored h)
      | cntPg0 => exact .inl (ignored h)
      | cntPg1 => exact .inl (ignored h)
      | cntRestart => exact .inl (ignored h)
      | hole => exact .inl (ignored h)
      | cmd =>
        right; right
        simp only [State.writePlace, State.writeCmd] at h
        split_ifs at h with hb
        · simp only [Host.Outcome.next.injEq] at h; exact .inl ⟨hb, h.symm⟩
        · right; left
          refine ⟨w, by simpa using hb, by rw [p1 rfl], ?_⟩
          split at h
          · next e he => simp only [Host.Outcome.next.injEq] at h; exact .inl ⟨e, he, h.symm⟩
          · next i hi => exact .inr ⟨i, hi, h⟩
      | ctrl =>
        simp only [State.writePlace, Host.Outcome.next.injEq] at h
        exact .inr (.inr (.inr (.inr (.inl ⟨w, by rw [p2 rfl], h.symm⟩))))
      | irq =>
        simp only [State.writePlace, Host.Outcome.next.injEq] at h
        exact .inr (.inr (.inr (.inr (.inr (.inl ⟨w, by rw [p3 rfl], h.symm⟩)))))
      | bitsize =>
        simp only [State.writePlace, Host.Outcome.next.injEq, State.unlessBusy] at h
        split_ifs at h with hb
        · exact .inr (.inr (.inl ⟨hb, h.symm⟩))
        · exact .inr (.inr (.inr (.inr (.inr (.inr (.inl ⟨_, by simpa using hb, h.symm⟩))))))
      | attemptCap =>
        simp only [State.writePlace, Host.Outcome.next.injEq, State.unlessBusy] at h
        split_ifs at h with hb
        · exact .inr (.inr (.inl ⟨hb, h.symm⟩))
        · exact .inr (.inr (.inr (.inr (.inr (.inr (.inr (.inl ⟨_, _, by simpa using hb, h.symm⟩)))))))
      | br i j =>
        simp only [State.writePlace, Host.Outcome.next.injEq, State.unlessBusy] at h
        split_ifs at h with hb
        · exact .inr (.inr (.inl ⟨hb, h.symm⟩))
        · simp only [State.writeBrWord] at h
          split_ifs at h with hj
          · obtain ⟨hi, he⟩ := eq_wordOffset_of_placeAt (by omega) h4 hp
            exact .inr (.inr (.inr (.inr (.inr (.inr (.inr (.inr
              ⟨i, j, w, by simpa using hb, hi, hj, by rw [he], h.symm⟩)))))))
          · exact .inl ⟨_, h.symm⟩
    all_goals (simp only [Host.Outcome.next.injEq] at h; exact .inl ⟨_, h.symm⟩)

/-- A step that answers a next state is a host access, a step of the running command, or a step of a unit's search; or
nothing moves. `s` with the scheduling fields moved is the state the agent steps from (00_scope.md R9). -/
theorem step_next_cases {s t : State} (h : step s = .next t) :
    t = s ∨
    ∃ ts k, ∃ r : State, r = { s with turns := ts, schedTaken := k } ∧
      ((∃ op rest, s.bus = op :: rest ∧ ({ r with bus := rest } : State).perform op = .next t) ∨
        (∃ i, s.seqEnabled = true ∧ decode s.cmd = .ok i ∧ exec i r = .next t) ∨
        (∃ u, (s.unit u).searchRuns = true ∧ t = r.searchStep u) ∨
        t = r) := by
  rcases step_cases s with ⟨_, h'⟩ | ⟨a, ts, k, ha, h'⟩
  · rw [h'] at h; simp only [Host.Outcome.next.injEq] at h; exact .inl h.symm
  · rw [h'] at h
    rw [State.mem_enabled] at ha
    cases a with
    | host =>
      right
      refine ⟨ts, k, _, rfl, .inl ?_⟩
      simp only [State.agentStep, State.hostStep] at h
      split at h
      · next hb => simp [State.agentEnabled, show s.bus = [] from hb] at ha
      · next op rest hb => exact ⟨op, rest, hb, h⟩
    | seq =>
      simp only [State.agentStep, State.seqStep] at h
      split at h
      · next i hi => exact .inr ⟨ts, k, _, rfl, .inr (.inl ⟨i, ha, hi, h⟩)⟩
      · next e he =>
        simp only [Host.Outcome.next.injEq] at h
        exact .inr ⟨ts, k, _, rfl, .inr (.inr (.inr h.symm))⟩
    | unit u =>
      simp only [State.agentStep, Host.Outcome.next.injEq] at h
      exact .inr ⟨ts, k, _, rfl, .inr (.inr (.inl ⟨u, ha, h.symm⟩))⟩

end Sys2Proof.Machine
end

