-- ==== Sys2Proof/Tests/Slice0.lean ====
section
/-! SUPPORT. The model's own tests: ill-formed terms refused, words decoded, single steps against the vectors of
95_test_vectors.md, and for each statement with hypotheses a state that meets them. -/

open Sys2Proof Sys2Proof.Machine

-- One theorem at a time: kernel evaluations waiting side by side take more stacks than the check's memory limit allows.
set_option Elab.async false

namespace Sys2Proof.Tests

/-! ### Helpers -/

/-- An idle block at W = 64, the width of 95_test_vectors.md, at a base that is not 0. -/
def idle : State := { State.reset with params := { lastWord := 1, base := 0x40000000 } }

/-- The block with big registers loaded by the host. -/
def load (ws : List (Nat × Nat)) (s : State) : State :=
  { s with mem := s.mem.writeBrs s.params ws, writtenBits := s.writtenBits.markBrs s.params ws }

/-- The block with a status. -/
def withStatus (busy : Bool) (st : SeqState) (s : State) : State :=
  { s with status := { Status.reset with busy := busy, state := st } }

/-- The block with queued answers of the random sources. -/
def draws (l0 l1 : List Nat) (s : State) : State :=
  { s with rng0 := { answers := l0, taken := 0 }, rng1 := { answers := l1, taken := 0 } }

/-- The block with pending accesses. -/
def pending (ops : List BusOp) (s : State) : State := { s with bus := ops }

/-- The block that runs the command of a word in EXEC. -/
def running (w : Word) (l : Latch) (s : State) : State := { withStatus true .exec s with cmd := w, latch := l }

/-- A unit that searches for `b` bits and has reported what is given. -/
def unitWith (b : Nat) (found fail : Bool) (res : Nat) : UnitState :=
  { UnitState.searching b with gen := { active := true, b := b, c := 0, found := found, res := res, fail := fail } }

/-- The block that runs KEYGEN in a state of its FSM. -/
def keygenAt (st : SeqState) (bits : Nat) (k : KeyRegs) : State :=
  { withStatus true st idle with cmd := 0x40, latch := { Latch.empty with bits := bits }, seq := { Sequencer.empty with key := k } }

/-- GEN_PRIME running, UNIT0 with the report given. -/
def genPrimeRuns (found fail : Bool) (res : Nat) : State :=
  running 0x00000730 { Latch.empty with bits := 64 } { idle with unit0 := unitWith 64 found fail res }

/-- KEYGEN in SEARCHING_PRIMES, both units with the reports given. -/
def joining (found0 fail0 found1 fail1 : Bool) : State :=
  { keygenAt .searchingPrimes 16 .empty with unit0 := unitWith 8 found0 fail0 251, unit1 := unitWith 8 found1 fail1 241 }

/-- The keypair values of V-KG-1 after each state, from p and q on. -/
def keyPrimes : KeyRegs := { KeyRegs.empty with p := 251, q := 241 }
def keyModulus : KeyRegs := { keyPrimes with n := 60491, lam := 6000 }
def keyExponent : KeyRegs := { keyModulus with e := 65537 }
def keyPrivate : KeyRegs := { keyExponent with d := 3473, dP := 223, dQ := 113, qInv := 25 }

/-- V-KG-4: p = q. -/
def keyEqual : KeyRegs := { KeyRegs.empty with p := 251, q := 251, n := 63001, lam := 250, e := 65537 }

/-- The successor of an outcome. -/
def nextOf : Outcome → Option State
  | .next t => some t
  | .fault f => nomatch f
  | .refused _ => none

theorem exists_next {o : Outcome} {P : State → Prop} [DecidablePred P] (h : (nextOf o).any (fun t => decide (P t)) = true) :
    ∃ t, o = .next t ∧ P t := by
  cases o with
  | next t => exact ⟨t, rfl, by simpa [nextOf] using h⟩
  | fault f => cases f
  | refused r => simp [nextOf] at h

/-- The state after the issue and the execution step of a command. -/
def after (i : Instr) (s : State) : Option State := (nextOf (exec i s)).bind fun t => nextOf (exec i t)

/-- A register and the STATUS word after the issue and the execution step of a command. -/
def result (i : Instr) (rd : Nat) (s : State) : Option (Nat × Word) :=
  (after i s).map fun t => (t.readBr rd, t.status.toWord)

/-! ### Well-formed terms -/

/-- Index 15 is the last register in every position, 16 is refused in every position (30_encoding.md R58). -/
theorem test_wellFormed_refuses :
    (Instr.modexp 15 15 15 15).WellFormed ∧ ¬(Instr.modexp 16 0 0 0).WellFormed ∧ ¬(Instr.modexp 0 16 0 0).WellFormed ∧
    ¬(Instr.modexp 0 0 16 0).WellFormed ∧ ¬(Instr.modexp 0 0 0 16).WellFormed ∧
    ¬(Instr.gcd 16 0 0).WellFormed ∧ ¬(Instr.gcd 0 16 0).WellFormed ∧ ¬(Instr.gcd 0 0 16).WellFormed ∧
    ¬(Instr.lcm 16 0 0).WellFormed ∧ ¬(Instr.lcm 0 16 0).WellFormed ∧ ¬(Instr.lcm 0 0 16).WellFormed ∧
    ¬(Instr.modinv 16 0 0).WellFormed ∧ ¬(Instr.modinv 0 16 0).WellFormed ∧ ¬(Instr.modinv 0 0 16).WellFormed := by decide

theorem test_wellFormed_refuses_primality :
    ¬(Instr.mrRound 16 0 0).WellFormed ∧ ¬(Instr.mrRound 0 16 0).WellFormed ∧ ¬(Instr.mrRound 0 0 16).WellFormed ∧
    ¬(Instr.mrRoundW 16 0 0 0).WellFormed ∧ ¬(Instr.mrRoundW 0 16 0 0).WellFormed ∧
    ¬(Instr.mrRoundW 0 0 16 0).WellFormed ∧ ¬(Instr.mrRoundW 0 0 0 16).WellFormed ∧
    ¬(Instr.isPrime 16 0).WellFormed ∧ ¬(Instr.isPrime 0 16).WellFormed ∧ ¬(Instr.genPrime 16).WellFormed ∧
    ¬(Instr.rsaep 16 0 0 0).WellFormed ∧ ¬(Instr.rsaep 0 16 0 0).WellFormed ∧ ¬(Instr.rsaep 0 0 16 0).WellFormed ∧
    ¬(Instr.rsaep 0 0 0 16).WellFormed ∧ Instr.keygen.WellFormed ∧ (Instr.genPrime 15).WellFormed := by decide

/-! ### Decoding (95_test_vectors.md 2.1; the fields written out bit by bit: RSV RS3 RS2 RS1 RD OPC) -/

theorem test_decode_modexp :
    decode 0b00000000_0011_0010_0001_0100_00000001 = .ok (.modexp 4 1 2 3) ∧
    decode 0x00FFFF01 = .ok (.modexp 15 15 15 15) := by constructor <;> rfl
theorem test_decode_gcd : decode 0b00000000_0000_0001_0000_0010_00010000 = .ok (.gcd 2 0 1) := rfl
theorem test_decode_lcm : decode 0b00000000_0000_0100_0011_0101_00010001 = .ok (.lcm 5 3 4) := rfl
theorem test_decode_modinv : decode 0b00000000_0000_0100_0011_0101_00010010 = .ok (.modinv 5 3 4) := rfl
theorem test_decode_mrRound : decode 0b00000000_0000_0001_0000_0101_00100000 = .ok (.mrRound 5 0 1) := rfl
theorem test_decode_mrRoundW : decode 0b00000000_0010_0001_0000_0101_00100001 = .ok (.mrRoundW 5 0 1 2) := rfl
theorem test_decode_isPrime : decode 0b00000000_0000_0000_0110_0101_00100010 = .ok (.isPrime 5 6) := rfl
theorem test_decode_genPrime : decode 0b00000000_0000_0000_0000_0111_00110000 = .ok (.genPrime 7) := rfl
theorem test_decode_keygen : decode 0b00000000_0000_0000_0000_0000_01000000 = .ok .keygen := rfl
theorem test_decode_rsaep : decode 0b00000000_0011_0010_0001_0000_01010000 = .ok (.rsaep 0 1 2 3) := rfl

/-- The illegal words of 95_test_vectors.md 2.1. -/
theorem test_decode_illegal :
    decode 0x01321401 = .error .rsvNonzero ∧ decode 0x80000040 = .error .rsvNonzero ∧
    decode 0x00310210 = .error .rs3Nonzero ∧ decode 0x00216520 = .error .rs3Nonzero ∧
    decode 0x00016522 = .error .rs2Nonzero ∧ decode 0x00001730 = .error .rs1Nonzero ∧
    decode 0x00000140 = .error .rdNonzero ∧ decode 0x00000000 = .error .unassignedOpcode ∧
    decode 0x00000002 = .error .unassignedOpcode ∧ decode 0x00000041 = .error .unassignedOpcode ∧
    decode 0xFFFFFFFF = .error .unassignedOpcode := by
  refine ⟨?_, ?_, ?_, ?_, ?_, ?_, ?_, ?_, ?_, ?_, ?_⟩ <;> rfl

/-- The bytes of a word in lane order (20_memory.md R45), and the table's numbering of its bits. -/
theorem test_decode_bytes :
    decodeTableWord 32 0x00321401 = some (.modexp 4 1 2 3) ∧ decodeTableWord 32 0x100000040 = some .keygen := by
  constructor <;> rfl

/-! ### One command each (95_test_vectors.md 2.3 to 2.11) -/

theorem test_modexp :
    result (.modexp 4 1 2 3) 4 (load [(1, 4), (2, 13), (3, 497)] idle) = some (445, 0x00000002) := by
  decide +kernel
/-- rd is also every source: 6^6 mod 6. -/
theorem test_modexp_same_register : result (.modexp 1 1 1 1) 1 (load [(1, 6)] idle) = some (0, 0x00000002) := by
  decide +kernel
theorem test_gcd : result (.gcd 2 0 1) 2 (load [(0, 60), (1, 52)] idle) = some (4, 0x00000002) := by
  decide +kernel
/-- The zero guard. -/
theorem test_gcd_zero : result (.gcd 0 0 1) 0 (load [(0, 0), (1, 9)] idle) = some (9, 0x00000002) := by
  decide +kernel
theorem test_lcm : result (.lcm 5 3 4) 5 (load [(3, 2 ^ 31), (4, 3)] idle) = some (0x180000000, 0x00000002) := by
  decide +kernel
theorem test_lcm_overflow : result (.lcm 5 3 4) 5 (load [(3, 2 ^ 63), (4, 3), (5, 7)] idle) = some (7, 0x00000406) := by
  decide +kernel
theorem test_modinv : result (.modinv 5 3 4) 5 (load [(3, 17), (4, 3120)] idle) = some (2753, 0x00000002) := by
  decide +kernel
theorem test_modinv_not_coprime :
    result (.modinv 5 3 4) 5 (load [(3, 6), (4, 9), (5, 7)] idle) = some (7, 0x00000306) := by decide +kernel
/-- d = 3, n = 97, draw 5. -/
theorem test_mrRound :
    result (.mrRound 5 0 1) 5 (draws [5] [] (load [(0, 3), (1, 97)] idle)) = some (1, 0x0000000A) := by
  decide +kernel
/-- 561 and the witness 2: a nontrivial root of 1. -/
theorem test_mrRoundW :
    result (.mrRoundW 5 0 1 2) 5 (load [(0, 35), (1, 561), (2, 2)] idle) = some (0, 0x00000002) := by
  decide +kernel
/-- The false positive 25. -/
theorem test_mrRoundW_liar :
    result (.mrRoundW 5 0 1 2) 5 (load [(0, 3), (1, 25), (2, 7)] idle) = some (1, 0x0000000A) := by
  decide +kernel
theorem test_isPrime_liar :
    result (.isPrime 5 6) 5 (draws [7, 18, 7, 7, 18] [] (load [(6, 25)] idle)) = some (1, 0x0000000A) := by
  decide +kernel
/-- 25 with the draws 7 and 2: Composite after two draws. -/
theorem test_isPrime_stops_early :
    (after (.isPrime 5 6) (draws [7, 2, 5] [] (load [(6, 25)] idle))).map (fun t => (t.readBr 5, t.rng0.answers)) =
      some (0, [5]) := by decide +kernel
theorem test_rsaep :
    result (.rsaep 3 0 1 2) 3 (load [(0, 65), (1, 17), (2, 3233)] idle) = some (2790, 0x00000002) := by
  decide +kernel
theorem test_rsaep_domain :
    (nextOf (exec (.rsaep 3 0 1 2) (load [(0, 3233), (1, 17), (2, 3233)] idle))).map (·.status.toWord) =
      some 0x00000206 := by decide +kernel

/-- The candidate 200 of 8 bits with the witness 2: counted, not found. -/
theorem test_candidate :
    (fun t : State => (t.cntPg0, t.unit0.gen.found, t.unit0.gen.c))
      (({ idle with unit0 := .searching 8 } |> draws [200, 2] []).searchStep .u0) = (1, false, 200) := by decide +kernel
/-- 130 passes with the witness 49 five times: an even composite is accepted. -/
theorem test_genPrime_even :
    (nextOf (exec (.genPrime 7) ((running 0x00000730 .empty { idle with unit0 := .searching 8 } |>
      draws [130, 49, 49, 49, 49, 49] []).searchStep .u0))).map (fun t => (t.readBr 7, t.status.toWord, t.cntPg0)) =
      some (130, 0x00000002, 1) := by decide +kernel
/-- V-KG-1: the private values; V-KG-4: p = q. -/
theorem test_keygen_private :
    (nextOf (exec .keygen (keygenAt .computingPrivateExponent 16 keyExponent))).map (fun t => (t.seq.key, t.status.toWord)) =
      some (keyPrivate, 0x00060001) ∧
    (nextOf (exec .keygen (keygenAt .computingPrivateExponent 16 keyEqual))).map (fun t => (t.status.toWord, t.mem)) =
      some (0x00000306, []) := by decide +kernel

/-- V-KG-5's back-edge: e is 65537 before and after it, p, q, n and lam are discarded, both searches start (R96). -/
theorem test_keygen_restart :
    (nextOf (exec .keygen (keygenAt .validatingExponent 40
      { KeyRegs.empty with p := 917519, q := 524309, n := 917519 * 524309, lam := 240531013772 }))).map
      (fun t => (t.seq.key, t.status.toWord, t.cntRestart, t.unit0.gen.b)) =
      some ({ KeyRegs.empty with e := 65537 }, 0x00020001, 1, 20) := by decide +kernel

/-- 196612 = 4 * 13 * 19 * 199 passes ISPRIME on five liars, and p - 1 = 3 * 65537: at b = 36 a composite takes the back-edge
that R97 denies to primes (log entry 11). -/
theorem test_keygen_composite_back_edge :
    (primeTest .u0 196612 { answers := [11449, 11449, 11449, 11449, 11449], taken := 0 }).verdict = true ∧
    (nextOf (exec .keygen (keygenAt .validatingExponent 36
      { KeyRegs.empty with p := 196612, q := 131101, n := 196612 * 131101, lam := Nat.lcm 196611 131100 }))).map
      (fun t => (t.status.toWord, t.cntRestart)) = some (0x00020001, 1) := by decide +kernel

/-! ### The window and a step -/

/-- 95_test_vectors.md 2.2: PARAM at W = 64, 32 and 4096. -/
theorem test_param :
    paramWord { lastWord := 1, base := 0 } = 0x00100502 ∧ paramWord { lastWord := 0, base := 0 } = 0x00100501 ∧
    paramWord { lastWord := 127, base := 0 } = 0x00100580 := by decide
/-- WR BITSIZE, 0xFFFF0010; RD BITSIZE. -/
theorem test_bitsize_reserved :
    (nextOf (step (pending [idle.writeAt 0x014 0xFFFF0010] idle))).map (fun t => nextOf (t.perform (t.readAt 0x014)) |>.map (·.resp)) =
      some (some (.data 0x00000010)) := by decide +kernel
/-- WR 0x1000, 5; RD 0x1000 and RD 0x1004: the second word is still unwritten. -/
theorem test_word_written :
    (nextOf (step (pending [idle.writeAt 0x1000 5] idle))).map
      (fun t => (nextOf (t.perform (t.readAt 0x1000)) |>.map (fun u => (u.resp, u.unwrittenRead)),
        nextOf (t.perform (t.readAt 0x1004)) |>.map (·.unwrittenRead))) =
      some (some (.data 5, false), some true) := by decide +kernel
/-- A word written with 0 is written, though no byte of it is listed (R19). -/
theorem test_zero_written :
    (nextOf (step (pending [idle.writeAt 0x1004 0] idle))).map (fun t => (t.mem, t.written 0 1, t.written 0 0)) =
      some ([], true, false) := by decide +kernel
/-- BUSY = 1; WR CMD: dropped. -/
theorem test_cmd_dropped :
    (nextOf ((running 0x00010210 .empty idle).perform (idle.writeAt 0x008 0x40))).map (fun t => (t.cmd, t.irq.toWord)) =
      some (0x00010210, 2) := by decide +kernel

/-- A word placed by the host runs as the first command after reset: KEYGEN with BITSIZE = 0 is a DOMAIN error (V-KG-7). -/
theorem test_first_keygen :
    (nextOf (step (State.reset.withFetchWord 32 0x40))).map (·.status.toWord) = some 0x00000206 := by decide +kernel
/-- Right after reset no big register is written: a command with sources is recorded as UnwrittenRead, though DOMAIN ends it
(R19, R118). -/
theorem test_first_gcd :
    (nextOf (step (State.reset.withFetchWord 32 0x00010210))).map (fun t => (t.unwrittenRead, t.status.toWord)) =
      some (true, 0x00000206) := by decide +kernel
/-- GCD r2, r0, r1 with BR1 unwritten and with both written; and the RSV bit is looked at before the sources
(95_test_vectors.md 2.12). -/
theorem test_decode_before_sources :
    (nextOf (step ((load [(0, 1)] idle).withFetchWord 32 0x00010210))).map (·.unwrittenRead) = some true ∧
    (nextOf (step ((load [(0, 1), (1, 0)] idle).withFetchWord 32 0x00010210))).map (·.unwrittenRead) = some false ∧
    (nextOf (step (idle.withFetchWord 32 0x01000010))).map (fun t => (t.unwrittenRead, t.status.toWord)) =
      some (false, 0x00000106) := by decide +kernel

/-! ### Witnesses: states and operands that meet the hypotheses of each statement -/

theorem witness_DecodeOfEncode : (Instr.modexp 15 0 15 0).WellFormed ∧ Instr.keygen.WellFormed := by decide
theorem witness_EncodeOfDecode : ∃ i, decode 0x00FFFF01 = .ok i := ⟨_, rfl⟩
theorem witness_LegalWordsMatchTable :
    (∃ i, decode 0x00000F30 = .ok i) ∧ ¬∃ i, decode 0x00001F30 = .ok i := by
  refine ⟨⟨_, rfl⟩, ?_⟩
  rintro ⟨i, h⟩
  rw [show decode 0x00001F30 = .error .rs1Nonzero from rfl] at h
  cases h

theorem witness_CommandWordIsRun :
    let s := pending [idle.writeAt 0x008 0x40, idle.readAt 0x00C] idle
    s.bus = s.writeAt 0x008 0x40 :: [idle.readAt 0x00C] ∧ s.status.busy = false ∧ s.status.state = .idle ∧
    s.unit0.gen.active = false ∧ s.unit1.gen.active = false ∧ decode 0x40 = .ok .keygen :=
  ⟨rfl, rfl, rfl, rfl, rfl, rfl⟩

/-- A command of one step, GEN_PRIME with either report, KEYGEN at the three ready joins and in each later state; with the
sequencer's turn queued beside a pending access, and with nothing else enabled. -/
theorem witness_RunningCommandGoesOn :
    (let s := pending [.hardReset] { running 0x00010210 .empty idle with turns := [.seq] };
      decode s.cmd = .ok (.gcd 2 0 1) ∧ s.status.state = .exec ∧ (∀ rd, Instr.gcd 2 0 1 ≠ .genPrime rd) ∧
      s.turns = .seq :: []) ∧
    (∀ r ∈ [(true, false), (false, true)],
      let s := genPrimeRuns r.1 r.2 211;
      decode s.cmd = .ok (.genPrime 7) ∧ s.status.state = .exec ∧ (s.unit0.gen.found = true ∨ s.unit0.gen.fail = true) ∧
      s.bus = [] ∧ s.unit0.searchRuns = false ∧ s.unit1.searchRuns = false) ∧
    (∀ s ∈ [joining false true true false, joining true false false true, joining true false true false],
      decode s.cmd = .ok .keygen ∧ s.status.state = .searchingPrimes ∧
      (s.unit0.gen.fail = true ∨ s.unit1.gen.fail = true ∨ s.unit0.gen.found = true ∧ s.unit1.gen.found = true) ∧
      s.bus = [] ∧ s.unit0.searchRuns = false ∧ s.unit1.searchRuns = false) ∧
    ∀ st ∈ [SeqState.computingModulus, .validatingExponent, .computingPrivateExponent, .done],
      let s := keygenAt st 16 keyPrimes;
      decode s.cmd = .ok .keygen ∧ s.status.state = st ∧ s.bus = [] ∧ s.unit0.searchRuns = false ∧
      s.unit1.searchRuns = false := by
  refine ⟨⟨rfl, rfl, nofun, rfl⟩, ?_, ?_, ?_⟩
  · intro r h
    simp only [List.mem_cons, List.not_mem_nil, or_false] at h
    rcases h with rfl | rfl <;> exact ⟨rfl, rfl, by decide, rfl, rfl, rfl⟩
  · intro s h
    simp only [List.mem_cons, List.not_mem_nil, or_false] at h
    rcases h with rfl | rfl | rfl <;> exact ⟨rfl, rfl, by decide, rfl, rfl, rfl⟩
  · intro st _
    exact ⟨(rfl : decode 0x40 = .ok .keygen), rfl, rfl, rfl, rfl⟩

theorem witness_StepIsOneEnabledAgents :
    (∀ a, idle.agentEnabled a = false) ∧ (pending [.hardReset] idle).agentEnabled .host = true ∧
    ({ idle with unit1 := .searching 8 } : State).agentEnabled (.unit .u1) = true ∧
    (running 0x00010210 .empty idle).agentEnabled .seq = true := by
  refine ⟨fun a => ?_, rfl, rfl, rfl⟩
  cases a with
  | unit u => cases u <;> rfl
  | _ => rfl

/-- The last offset of the window at a wrong width, an offset that is no multiple of 4, and the last aligned offset. -/
theorem witness_BadAccessIsBusError :
    (0x2FFF < 0x3000 ∧ (2 ≠ 4 ∨ 0x2FFF % 4 ≠ 0)) ∧ (0x002 < 0x3000 ∧ (4 ≠ 4 ∨ 0x002 % 4 ≠ 0)) ∧
    (0x2FFC < 0x3000 ∧ 4 = 4 ∧ 0x2FFC % 4 = 0 ∧ ∃ t, idle.perform (idle.writeAt 0x2FFC 7) = .next t ∧ t.resp = .written) ∧
    ∃ t, idle.perform (idle.readAt 0x2FFC) = .next t ∧ t.resp = .data 0 := by
  refine ⟨by decide, by decide, ⟨by decide, by decide, by decide, exists_next (by decide +kernel)⟩, exists_next (by decide +kernel)⟩

theorem witness_ReadsChangeNothing :
    (∃ t, idle.perform (.read 0x40000000 4) = .next t ∧ t.resp = .data 0x4D525443) ∧
    (0x3FFFFFFF < idle.params.base) ∧ idle.params.base + 0x3000 ≤ 0x40003000 :=
  ⟨exists_next (by decide +kernel), by decide, by decide⟩

/-- The last big register: its last word that holds bits, the first and the last that do not; written, unwritten, busy. -/
theorem witness_BigRegisterWordAccess :
    (15 < 16 ∧ 1 < 128 ∧ 1 < idle.params.maxWords ∧
      (load [(15, 2 ^ 32 * 9)] idle).mem.readWord (wordOffset 15 1) = 9 ∧ (load [(15, 1)] idle).written 15 1 = true ∧
      idle.written 15 1 = false ∧
      idle.status.busy = false) ∧
    (idle.params.maxWords ≤ 2 ∧ 2 < 128 ∧ idle.params.maxWords ≤ 127 ∧ 127 < 128) ∧
    (withStatus true .exec idle).status.busy = true := by
  refine ⟨⟨by decide, by decide, by decide, by decide +kernel, by decide +kernel, by decide +kernel, rfl⟩, by decide, rfl⟩

theorem witness_BigRegisterIsSumOfWords :
    (load [(2, 0x100000003)] idle).readBr 2 = 0x100000003 ∧ (load [(2, 0x100000003)] idle).mem.readWord (wordOffset 2 0) = 3 ∧
    (load [(2, 0x100000003)] idle).mem.readWord (wordOffset 2 1) = 1 := by
  decide +kernel

/-- Each clause at the ends of its range, in a busy block. -/
theorem witness_WritesWhileBusy :
    (withStatus true .exec idle).status.busy = true ∧
    (∀ off ∈ [0x008, 0x014, 0x01C, 0x1000, 0x2FFC], off < 0x3000 ∧ off % 4 = 0 ∧
      (off = 0x008 ∨ off = 0x014 ∨ off = 0x01C ∨ 0x1000 ≤ off)) ∧
    (∀ off ∈ [0x000, 0x004, 0x00C, 0x020, 0xFFC], off < 0x3000 ∧ off % 4 = 0 ∧
      (off = 0x000 ∨ off = 0x004 ∨ off = 0x00C ∨ (0x020 ≤ off ∧ off < 0x1000))) ∧
    (1 : Word).getLsbD 1 = false ∧ (2 : Word).getLsbD 1 = true ∧
    ∃ t, (withStatus true .exec idle).perform (idle.readAt 0x008) = .next t ∧ t.resp = .data 0 :=
  ⟨rfl, by decide, by decide, by decide, by decide, exists_next (by decide +kernel)⟩

theorem witness_RegisterWritesWhileIdle :
    idle.status.busy = false ∧ (1 : Word).getLsbD 1 = false ∧
    ∀ off ∈ [0x000, 0x004, 0x00C, 0x020, 0xFFC],
      (off = 0x000 ∨ off = 0x004 ∨ off = 0x00C ∨ (0x020 ≤ off ∧ off < 0x1000)) ∧ off % 4 = 0 :=
  ⟨rfl, by decide, by decide⟩

/-- The first and the last offset with no register. -/
theorem witness_RegisterReads :
    (0x02C ≤ 0x02C ∧ 0x02C < 0x1000 ∧ 0x02C % 4 = 0) ∧ 0x02C ≤ 0xFFC ∧ 0xFFC < 0x1000 ∧ 0xFFC % 4 = 0 := by decide

theorem witness_SoftResetEffect : (2 : Word).getLsbD 1 = true := by decide

/-- A pending completion with the line high. -/
def lineHigh : State := { idle with irqEn := true, irq := { doneP := true, wbusyP := true } }

/-- The line falls by a write to IRQ, by a write to CTRL and by a hardware reset. -/
theorem witness_InterruptLineRule :
    lineHigh.irqLine = true ∧ (0 : Word).getLsbD 1 = false ∧
    ∀ op ∈ [idle.writeAt 0x018 3, idle.writeAt 0x010 0, idle.writeAt 0x010 2, .hardReset],
      ∃ t, step (pending [op] lineHigh) = .next t ∧ t.irqLine = false := by
  refine ⟨rfl, by decide, ?_⟩
  intro op h
  simp only [List.mem_cons, List.not_mem_nil, or_false] at h
  rcases h with rfl | rfl | rfl | rfl <;> exact exists_next (by decide +kernel)

theorem witness_PendingBitsClearedOnly :
    lineHigh.irq.doneP = true ∧ lineHigh.irq.wbusyP = true ∧
    (∃ t, step (pending [idle.writeAt 0x018 1] lineHigh) = .next t ∧ t.irq.doneP = false ∧ t.irq.wbusyP = true) ∧
    (∃ t, step (pending [idle.writeAt 0x018 2] lineHigh) = .next t ∧ t.irq.doneP = true ∧ t.irq.wbusyP = false) ∧
    ∃ t, step (pending [.hardReset] lineHigh) = .next t ∧ t.irq.doneP = false ∧ t.irq.wbusyP = false :=
  ⟨rfl, rfl, exists_next (by decide +kernel), exists_next (by decide +kernel), exists_next (by decide +kernel)⟩

/-- By an illegal word, and by a commit. -/
theorem witness_CompletionSetsPending :
    (∃ t, step (pending [idle.writeAt 0x008 0] idle) = .next t ∧ t.status.done = true) ∧
    ∃ t, step (running 0x00010210 { Latch.empty with op1 := 48, op2 := 18 } idle) = .next t ∧ t.status.done = true :=
  ⟨exists_next (by decide +kernel), exists_next (by decide +kernel)⟩

/-! ### Procedures -/

theorem witness_EngineComputesPower : 1 ≤ 1 ∧ modExp 7 0 1 = 0 ∧ modExp 0 0 5 = 1 := by decide +kernel
theorem witness_LcmfIsLcm : ¬(0 = 0 ∧ 5 = 0) ∧ lcmF 0 5 = 0 ∧ lcmF 60 52 = 780 := by decide +kernel
theorem witness_ModInverseIsInverse :
    modInvF 10 1 = .ok 0 ∧ modInvF 1 2 = .ok 1 ∧ modInvF 17 3120 = .ok 2753 ∧ modInvF 0 7 = .notCoprime 7 := by decide +kernel
theorem witness_SplitGivesOddPart : 2 ≤ 2 ∧ split 2 = (0, 1) ∧ split 561 = (4, 35) := by decide +kernel
theorem witness_RoundVerdict : 5 ≤ 5 ∧ mrCore 3 1 5 = true ∧ mrCore 2 35 561 = false ∧ mrCore 2 0 15 = true := by decide +kernel
/-- The prime 7 with d = 2, which is not the odd part of 6, and the witness 3 is reported Composite; with d = 3 it is not
(R77 against 00_scope.md R15: log entry 12). -/
theorem test_round_prime_other_d : Nat.Prime 7 ∧ mrCore 3 2 7 = false ∧ split 7 = (1, 3) ∧ mrCore 3 3 7 = true :=
  ⟨by norm_num, by decide +kernel, by decide +kernel, by decide +kernel⟩
theorem witness_PrimePassesEveryRound : 5 ≤ 5 ∧ Nat.Prime 5 ∧ 2 ≤ 2 ∧ 2 ≤ 5 - 2 ∧ 2 ≤ 3 ∧ 3 ≤ 5 - 2 := by norm_num

/-! ### Commands -/

theorem witness_ModexpResult :
    (load [(1, 7), (2, 0), (3, 1)] idle).status.busy = false ∧ (load [(1, 7), (2, 0), (3, 1)] idle).readBr 1 = 7 ∧
    (load [(1, 7), (2, 0), (3, 1)] idle).readBr 2 = 0 ∧ (load [(1, 7), (2, 0), (3, 1)] idle).readBr 3 = 1 ∧
    1 ≠ 0 := by decide +kernel
theorem witness_GcdResult :
    (load [(0, 0), (1, 9)] idle).status.busy = false ∧ (load [(0, 0), (1, 9)] idle).readBr 0 = 0 ∧
    (load [(0, 0), (1, 9)] idle).readBr 1 = 9 ∧ ¬(0 = 0 ∧ 9 = 0) := by decide +kernel
/-- The largest multiple that fits 64 bits, and one that does not fit. -/
theorem witness_LcmResult :
    (load [(3, 2 ^ 64 - 1), (4, 3)] idle).readBr 3 = (2 ^ 64 - 1) ∧ (load [(3, 2 ^ 64 - 1), (4, 3)] idle).readBr 4 = 3 ∧
    Nat.lcm (2 ^ 64 - 1) 3 < 2 ^ idle.params.maxBits ∧
    (load [(3, 2 ^ 63), (4, 3)] idle).readBr 3 = (2 ^ 63) ∧ (load [(3, 2 ^ 63), (4, 3)] idle).readBr 4 = 3 ∧
    2 ^ idle.params.maxBits ≤ Nat.lcm (2 ^ 63) 3 ∧ idle.status.busy = false := by decide +kernel
theorem witness_ModinvResult :
    (load [(3, 10), (4, 1)] idle).readBr 3 = 10 ∧ (load [(3, 10), (4, 1)] idle).readBr 4 = 1 ∧ 1 ≠ 0 ∧
    Nat.gcd 10 1 = 1 ∧ (load [(3, 6), (4, 9)] idle).readBr 3 = 6 ∧ (load [(3, 6), (4, 9)] idle).readBr 4 = 9 ∧
    Nat.gcd 6 9 ≠ 1 ∧ idle.status.busy = false := by decide +kernel
theorem witness_MrRoundResult :
    (load [(0, 1), (1, 5)] idle).status.busy = false ∧ (load [(0, 1), (1, 5)] idle).readBr 0 = 1 ∧
    (load [(0, 1), (1, 5)] idle).readBr 1 = 5 ∧ 5 ≤ 5 ∧ (load [(0, 1), (1, 5)] idle).rng0.answers = [] ∧
    (draws [3] [] (load [(0, 1), (1, 5)] idle)).rng0.answers = 3 :: [] ∧ 2 ≤ 3 ∧ 3 ≤ 5 - 2 := by decide +kernel
theorem witness_MrRoundWResult :
    (load [(0, 3), (1, 97), (2, 95)] idle).status.busy = false ∧ (load [(0, 3), (1, 97), (2, 95)] idle).readBr 0 = 3 ∧
    (load [(0, 3), (1, 97), (2, 95)] idle).readBr 1 = 97 ∧ (load [(0, 3), (1, 97), (2, 95)] idle).readBr 2 = 95 ∧
    5 ≤ 97 ∧ 2 ≤ 95 ∧ 95 ≤ 97 - 2 := by decide +kernel
/-- Every clause: 0, 1 and 4; 2 and 3; a value from 5 on that is accepted and one that is not. -/
theorem witness_IsPrimeResult :
    (∀ n ∈ [0, 1, 4, 2, 3, 5, 9], (load [(6, n)] idle).status.busy = false ∧ (load [(6, n)] idle).readBr 6 = n) ∧
    result (.isPrime 5 6) 5 (load [(6, 4)] idle) = some (0, 0x00000002) ∧
    result (.isPrime 5 6) 5 (load [(6, 3)] idle) = some (1, 0x0000000A) ∧
    result (.isPrime 5 6) 5 (draws [2, 3, 2, 3, 2] [] (load [(6, 5)] idle)) = some (1, 0x0000000A) ∧
    result (.isPrime 5 6) 5 (draws [2] [] (load [(6, 9)] idle)) = some (0, 0x00000002) := by decide +kernel
theorem witness_IsPrimeAcceptsEveryPrime :
    (load [(6, 2)] idle).status.busy = false ∧ (load [(6, 2)] idle).readBr 6 = 2 ∧ Nat.Prime 2 :=
  ⟨rfl, by decide +kernel, by norm_num⟩
theorem witness_RsaepResult :
    (load [(0, 0), (1, 5), (2, 1)] idle).status.busy = false ∧ (load [(0, 0), (1, 5), (2, 1)] idle).readBr 0 = 0 ∧
    (load [(0, 0), (1, 5), (2, 1)] idle).readBr 1 = 5 ∧ (load [(0, 0), (1, 5), (2, 1)] idle).readBr 2 = 1 ∧
    0 < 1 := by decide +kernel

/-! ### The prime generator -/

/-- The least and the greatest legal bit length of GEN_PRIME and of KEYGEN. -/
theorem witness_SearchCommandsStart :
    idle.status.busy = false ∧
    (∀ b ∈ [2, 64], ({ idle with bitsize := BitVec.ofNat 16 b } : State).bitsize.toNat ≤ idle.params.maxBits ∧
      2 ≤ ({ idle with bitsize := BitVec.ofNat 16 b } : State).bitsize.toNat) ∧
    ∀ b ∈ [16, 64], ({ idle with bitsize := BitVec.ofNat 16 b } : State).bitsize.toNat ≤ idle.params.maxBits ∧
      ({ idle with bitsize := BitVec.ofNat 16 b } : State).bitsize.toNat % 2 = 0 ∧
      16 ≤ ({ idle with bitsize := BitVec.ofNat 16 b } : State).bitsize.toNat := by decide

/-- Units that search for 2 bits, with a candidate cap. -/
def capped (cap : Nat) (cnt : Word) : State :=
  { idle with
    unit0 := .searching 2
    unit1 := .searching 2
    latch := { Latch.empty with candCap := cap }
    cntPg0 := cnt
    cntPg1 := cnt }

/-- The cap reached, no cap, a cap not yet reached. -/
theorem witness_CandidateStep :
    ∀ u : UnitId, 2 ≤ ((capped 3 3).unit u).gen.b ∧
      ((capped 3 3).latch.candCap ≠ 0 ∧ ((capped 3 3).cntPg u).toNat = (capped 3 3).latch.candCap) ∧
      2 ≤ ((capped 0 0xFFFFFFFF).unit u).gen.b ∧ (capped 0 0xFFFFFFFF).latch.candCap = 0 ∧
      2 ≤ ((capped 3 2).unit u).gen.b ∧ ((capped 3 2).cntPg u).toNat ≠ (capped 3 2).latch.candCap := by
  intro u; cases u <;> decide

theorem witness_GenPrimeEnds :
    (genPrimeRuns true false (2 ^ 64 - 1)).status.busy = true ∧
    ((genPrimeRuns true false (2 ^ 64 - 1)).unit0.gen.fail = false ∧ (genPrimeRuns true false (2 ^ 64 - 1)).unit0.gen.found = true ∧
      (genPrimeRuns true false (2 ^ 64 - 1)).unit0.gen.res < 2 ^ (genPrimeRuns true false (2 ^ 64 - 1)).params.maxBits) ∧
    (genPrimeRuns false true 0).unit0.gen.fail = true ∧
    ((genPrimeRuns false false 0).unit0.gen.fail = false ∧ (genPrimeRuns false false 0).unit0.gen.found = false) := by
  decide +kernel
theorem witness_GenPrimeOfTwoBits :
    idle.status.busy = false ∧ ({ idle with bitsize := 2 } : State).bitsize.toNat = 2 ∧ idle.rng0.answers = [] :=
  ⟨rfl, rfl, rfl⟩

/-! ### KEYGEN -/

theorem witness_KeygenJoinStep :
    (joining false true false false).status.busy = true ∧ (joining false true false false).status.state = .searchingPrimes ∧
    (joining false true false false).unit0.gen.fail = true ∧ (joining true false false true).unit1.gen.fail = true ∧
    ((joining true false true false).unit0.gen.fail = false ∧ (joining true false true false).unit1.gen.fail = false ∧
      (joining true false true false).unit0.gen.found = true ∧ (joining true false true false).unit1.gen.found = true) ∧
    ((joining true false false false).unit0.gen.fail = false ∧ (joining true false false false).unit1.gen.fail = false ∧
      (joining true false false false).unit1.gen.found = false) := by decide

/-- A KEYGEN state past the search meets the control invariant. -/
theorem keygenAt_control (st : SeqState) (bits : Nat) (k : KeyRegs)
    (h : st ∈ [SeqState.computingModulus, .validatingExponent, .computingPrivateExponent, .done])
    (hb : bits % 2 = 0 ∧ 16 ≤ bits ∧ bits ≤ 64) : (keygenAt st bits k).ControlInv := by
  simp only [List.mem_cons, List.not_mem_nil, or_false] at h
  have hf : (keygenAt st bits k).LatchFits := by
    refine ⟨?_, ?_, ?_⟩ <;> exact Nat.two_pow_pos _
  have hk : (keygenAt st bits k).KeygenRuns := ⟨(rfl : decode 0x40 = .ok .keygen), hb⟩
  rcases h with rfl | rfl | rfl | rfl <;>
    exact ⟨⟨⟨fun _ => nofun, fun _ => rfl⟩, ⟨nofun, fun h => absurd rfl h⟩, nofun⟩, hf, hk, rfl, rfl⟩

/-- p and q of a KEYGEN state are candidates that passed the test with the witness 2 in every round. -/
theorem keygenAt_primes (st : SeqState) (bits : Nat) (k : KeyRegs)
    (h : candLo (bits / 2) ≤ k.p ∧ k.p ≤ candHi (bits / 2) ∧ candLo (bits / 2) ≤ k.q ∧ k.q ≤ candHi (bits / 2))
    (hp : (primeTest .u0 k.p { answers := [2, 2, 2, 2, 2], taken := 0 }).verdict = true)
    (hq : (primeTest .u1 k.q { answers := [2, 2, 2, 2, 2], taken := 0 }).verdict = true) :
    (keygenAt st bits k).PrimesLatched := ⟨h.1, h.2.1, h.2.2.1, h.2.2.2, ⟨_, hp⟩, ⟨_, hq⟩⟩

/-- The key of V-KG-1, and the least and the greatest primes of 8 bits (44_keypair_fsm.md R99). -/
theorem witness_KeygenModulusStep :
    (keygenAt .computingModulus 16 keyPrimes).ControlInv ∧ (keygenAt .computingModulus 16 keyPrimes).KeyInv ∧
    (keygenAt .computingModulus 16 keyPrimes).status.state = .computingModulus ∧
    (keygenAt .computingModulus 16 { KeyRegs.empty with p := 131, q := 251 }).KeyInv := by
  refine ⟨keygenAt_control _ _ _ (by simp) (by decide), ?_, rfl, ?_⟩
  · exact keygenAt_primes _ _ _ (by decide) (by decide +kernel) (by decide +kernel)
  · exact keygenAt_primes _ _ _ (by decide) (by decide +kernel) (by decide +kernel)

/-- V-KG-1, and V-KG-5 with its λ, a multiple of 65537, at the cap and below it. -/
theorem witness_KeygenValidateStep :
    (keygenAt .validatingExponent 16 keyModulus).status.busy = true ∧
    (keygenAt .validatingExponent 16 keyModulus).status.state = .validatingExponent ∧
    Nat.gcd 65537 (keygenAt .validatingExponent 16 keyModulus).seq.key.lam = 1 ∧
    (let s : State := { keygenAt .validatingExponent 40 { KeyRegs.empty with lam := 240531013772 } with
        latch := { Latch.empty with bits := 40, restartCap := 1 }, cntRestart := 1 };
      s.status.busy = true ∧ s.status.state = .validatingExponent ∧ Nat.gcd 65537 s.seq.key.lam ≠ 1 ∧
      s.latch.restartCap ≠ 0 ∧ s.cntRestart.toNat = s.latch.restartCap) ∧
    (let s := keygenAt .validatingExponent 40 { KeyRegs.empty with lam := 240531013772 };
      s.status.busy = true ∧ s.status.state = .validatingExponent ∧ Nat.gcd 65537 s.seq.key.lam ≠ 1 ∧
      s.latch.restartCap = 0) := by decide +kernel

/-- The smallest legal bit size with the primes of V-KG-1, and 38 with two primes of 19 bits. -/
theorem witness_SmallKeysTakeNoBackEdge :
    (let s := keygenAt .validatingExponent 16 keyModulus;
      s.ControlInv ∧ s.KeyInv ∧ s.status.state = .validatingExponent ∧ s.latch.bits ≤ 38 ∧ Nat.Prime s.seq.key.p ∧
      Nat.Prime s.seq.key.q) ∧
    (let s := keygenAt .validatingExponent 38
        { KeyRegs.empty with p := 262147, q := 524287, n := 262147 * 524287, lam := Nat.lcm 262146 524286 };
      s.ControlInv ∧ s.KeyInv ∧ s.status.state = .validatingExponent ∧ s.latch.bits ≤ 38 ∧ Nat.Prime s.seq.key.p ∧
      Nat.Prime s.seq.key.q) := by
  refine ⟨⟨keygenAt_control _ _ _ (by simp) (by decide), ?_, rfl, by decide, ?_, ?_⟩,
    ⟨keygenAt_control _ _ _ (by simp) (by decide), ?_, rfl, by decide, ?_, ?_⟩⟩
  · exact ⟨keygenAt_primes _ _ _ (by decide) (by decide +kernel) (by decide +kernel),
      (by decide +kernel : keyModulus.ModulusKnown)⟩
  · show Nat.Prime 251; norm_num
  · show Nat.Prime 241; norm_num
  · exact ⟨keygenAt_primes _ _ _ (by decide +kernel) (by decide +kernel) (by decide +kernel), rfl, rfl⟩
  · show Nat.Prime 262147; norm_num
  · show Nat.Prime 524287; norm_num

/-- V-KG-1, and V-KG-4 with p = q. -/
theorem witness_KeygenPrivateStep :
    (let s := keygenAt .computingPrivateExponent 16 keyExponent;
      s.ControlInv ∧ s.KeyInv ∧ s.status.state = .computingPrivateExponent ∧ Nat.gcd s.seq.key.q s.seq.key.p = 1) ∧
    (let s := keygenAt .computingPrivateExponent 16 keyEqual;
      s.ControlInv ∧ s.KeyInv ∧ s.status.state = .computingPrivateExponent ∧ Nat.gcd s.seq.key.q s.seq.key.p ≠ 1 ∧
      s.seq.key.p = s.seq.key.q) := by
  refine ⟨⟨keygenAt_control _ _ _ (by simp) (by decide), ?_, rfl, by decide +kernel⟩,
    ⟨keygenAt_control _ _ _ (by simp) (by decide), ?_, rfl, by decide +kernel, rfl⟩⟩
  · exact ⟨keygenAt_primes _ _ _ (by decide) (by decide +kernel) (by decide +kernel),
      (by decide +kernel : keyExponent.ModulusKnown ∧ keyExponent.ExponentValid)⟩
  · exact ⟨keygenAt_primes _ _ _ (by decide) (by decide +kernel) (by decide +kernel),
      (by decide +kernel : keyEqual.ModulusKnown ∧ keyEqual.ExponentValid)⟩

theorem witness_KeygenCommitsValidKey :
    (keygenAt .done 16 keyPrivate).ControlInv ∧ (keygenAt .done 16 keyPrivate).KeyInv ∧
    (keygenAt .done 16 keyPrivate).status.state = .done := by
  refine ⟨keygenAt_control _ _ _ (by simp) (by decide), ?_, rfl⟩
  exact ⟨keygenAt_primes _ _ _ (by decide) (by decide +kernel) (by decide +kernel),
    (by decide +kernel : keyPrivate.ModulusKnown ∧ keyPrivate.ExponentValid ∧ keyPrivate.PrivateKnown)⟩

/-! ### Errors and stops -/

theorem witness_IllegalWordCompletes : idle.status.busy = false ∧ decode 0xFFFFFFFF = .error .unassignedOpcode := ⟨rfl, rfl⟩

/-- Every clause at the edge of its domain. -/
theorem witness_DomainErrorsAtIssue :
    idle.status.busy = false ∧
    (let s := load [(1, 9), (2, 9), (3, 0)] idle; s.status.busy = false ∧ s.readBr 3 = 0) ∧
    (let s := load [(1, 0), (2, 0)] idle; s.status.busy = false ∧ s.readBr 1 = 0 ∧ s.readBr 2 = 0) ∧
    (let s := load [(1, 3), (2, 4), (3, 2)] idle; s.status.busy = false ∧ s.readBr 2 < 5) ∧
    (let s := load [(1, 3), (2, 97), (3, 1), (4, 96)] idle;
      s.status.busy = false ∧ s.readBr 2 = 97 ∧ s.readBr 3 < 2 ∧ s.readBr 2 - 2 < s.readBr 4) ∧
    (let s := load [(0, 3233), (1, 17), (2, 3233)] idle; s.status.busy = false ∧ s.readBr 2 ≤ s.readBr 0) ∧
    (∀ b ∈ [0, 1, 65], let s : State := { idle with bitsize := BitVec.ofNat 16 b };
      s.bitsize.toNat < 2 ∨ s.params.maxBits < s.bitsize.toNat) ∧
    (∀ b ∈ [0, 14, 15, 17, 66], let s : State := { idle with bitsize := BitVec.ofNat 16 b };
      s.bitsize.toNat % 2 = 1 ∨ s.bitsize.toNat < 16 ∨ s.params.maxBits < s.bitsize.toNat) := by
  decide +kernel

/-- A DOMAIN, an OVERFLOW, a NOT_COPRIME and an ATTEMPT_CAP completion, each from a state without an error. -/
theorem witness_ErrorsByCommand :
    (∃ t, exec .keygen idle = .next t ∧ t.status.errCode = .domain) ∧
    (∃ t, exec (.lcm 5 3 4) (running 0x00043511 { Latch.empty with op1 := 2 ^ 63, op2 := 3 } idle) = .next t ∧
      t.status.errCode = .overflow) ∧
    (∃ t, exec (.modinv 5 3 4) (running 0x00043512 { Latch.empty with op1 := 6, op2 := 9 } idle) = .next t ∧
      t.status.errCode = .notCoprime) ∧
    (∃ t, exec (.genPrime 7) (genPrimeRuns false true 0) = .next t ∧ t.status.errCode = .attemptCap) ∧
    idle.status.errCode = .noError ∧ (genPrimeRuns false true 0).status.errCode = .noError :=
  ⟨exists_next (by decide +kernel), exists_next (by decide +kernel), exists_next (by decide +kernel),
    exists_next (by decide +kernel), rfl, rfl⟩

/-- An error at the issue and one of a running command. -/
theorem witness_ErrorsArePrecise :
    idle.status.err = false ∧ (∃ t, exec .keygen idle = .next t ∧ t.status.err = true) ∧
    (genPrimeRuns false true 0).status.err = false ∧ (genPrimeRuns false true 0).status.busy = true ∧
    ∃ t, exec (.genPrime 7) (genPrimeRuns false true 0) = .next t ∧ t.status.err = true :=
  ⟨rfl, exists_next (by decide +kernel), rfl, rfl, exists_next (by decide +kernel)⟩

/-- A source with one unwritten word, none, and a running command, whose sources are no longer read. -/
theorem witness_UnwrittenSourceIsRecorded :
    (∃ t, exec (.gcd 2 0 1) (load [(0, 1)] idle) = .next t ∧ t.unwrittenRead = true) ∧
    (∃ t, exec (.gcd 2 0 1) (load [(0, 1), (1, 0)] idle) = .next t ∧ t.unwrittenRead = false) ∧
    (∃ t, exec (.gcd 2 0 1) (running 0x00010210 { Latch.empty with op1 := 48, op2 := 18 } idle) = .next t ∧
      t.unwrittenRead = false) ∧
    1 ∈ (Instr.gcd 2 0 1).sourceRegs ∧ (load [(0, 1)] idle).written 1 0 = false :=
  ⟨exists_next (by decide +kernel), exists_next (by decide +kernel), exists_next (by decide +kernel), by decide,
    by decide +kernel⟩

/-- A host read and an issue, each of something unwritten. -/
theorem witness_StepRecordsOnlyUnwrittenReads :
    (pending [idle.readAt 0x1000] idle).StatusInv ∧ (pending [idle.readAt 0x1000] idle).unwrittenRead = false ∧
    (∃ t, step (pending [idle.readAt 0x1000] idle) = .next t ∧ t.unwrittenRead = true) ∧
    (pending [idle.writeAt 0x008 0x00010210] idle).StatusInv ∧
    (∃ t, step (pending [idle.writeAt 0x008 0x00010210] idle) = .next t ∧ t.unwrittenRead = true) ∧
    ({ pending [idle.readAt 0x1000] idle with turns := [.host] } : State).turns.head? = some .host ∧
    (∃ t, (pending [idle.readAt 0x1000] (load [(0, 0)] idle)).Successor t ∧ t.resp = .data 0) :=
  ⟨by decide, rfl, exists_next (by decide +kernel), by decide, exists_next (by decide +kernel), rfl, by
    obtain ⟨t, h1, h2, h3⟩ := exists_next (o := step (pending [idle.readAt 0x1000] (load [(0, 0)] idle)))
      (P := fun t => t.unwrittenRead = false ∧ t.resp = .data 0) (by decide +kernel)
    exact ⟨t, ⟨h1, h2⟩, h3⟩⟩

/-! ### Frames -/

/-- An issue, an execution step, and a step of the KEYGEN FSM. -/
theorem witness_CommandFrame :
    idle.status.busy = false ∧ (∃ t, exec .keygen idle = .next t ∧ t.status.done = true) ∧
    (∃ t, exec (.gcd 2 0 1) (running 0x00010210 { Latch.empty with op1 := 48, op2 := 18 } idle) = .next t ∧
      t.status.done = true) ∧
    ∃ t, exec .keygen (keygenAt .validatingExponent 16 keyModulus) = .next t ∧ t.status.busy = true :=
  ⟨rfl, exists_next (by decide +kernel), exists_next (by decide +kernel), exists_next (by decide +kernel)⟩

theorem witness_UnitsShareNothing : UnitId.u1 ≠ UnitId.u0 ∧ UnitId.u0 ≠ UnitId.u1 := by decide

/-- A byte, and a written bit, changed by a hardware reset, by a host write and by a commit. -/
theorem witness_BigRegistersChangeOnly :
    (∃ t, step (pending [.hardReset] (load [(0, 5)] idle)) = .next t ∧
      t.mem.read 0x1000 ≠ (load [(0, 5)] idle).mem.read 0x1000 ∧ t.written 0 1 ≠ (load [(0, 5)] idle).written 0 1) ∧
    (∃ t, step (pending [idle.writeAt 0x2E04 0x9000000] idle) = .next t ∧ t.mem.read 0x2E07 ≠ idle.mem.read 0x2E07 ∧
      t.written 15 1 ≠ idle.written 15 1) ∧
    ∃ t, step (running 0x00010210 { Latch.empty with op1 := 48, op2 := 18 } idle) = .next t ∧
      t.mem.read 0x1400 ≠ idle.mem.read 0x1400 ∧ t.written 2 1 ≠ idle.written 2 1 :=
  ⟨exists_next (by decide +kernel), exists_next (by decide +kernel), exists_next (by decide +kernel)⟩

/-- The KEYGEN states past the search move on, and a soft reset ends them. -/
theorem witness_StateTransitions :
    (keygenAt .computingModulus 16 keyPrimes).ControlInv ∧
    (∃ t, step (keygenAt .computingModulus 16 keyPrimes) = .next t ∧ t.status.state = .validatingExponent) ∧
    (keygenAt .validatingExponent 16 keyModulus).ControlInv ∧
    (∃ t, step (keygenAt .validatingExponent 16 keyModulus) = .next t ∧ t.status.state = .computingPrivateExponent) ∧
    (keygenAt .computingPrivateExponent 16 keyExponent).ControlInv ∧
    (∃ t, step (keygenAt .computingPrivateExponent 16 keyExponent) = .next t ∧ t.status.state = .done) ∧
    (keygenAt .done 16 keyPrivate).ControlInv ∧
    (∃ t, step (keygenAt .done 16 keyPrivate) = .next t ∧ t.status.state = .idle) ∧
    ∃ t, ({ pending [idle.writeAt 0x010 2] (keygenAt .computingModulus 16 keyPrimes) with turns := [.host] } : State).advance =
      .next t ∧ t.status = .reset := by
  refine ⟨keygenAt_control _ _ _ (by simp) (by decide), exists_next (by decide +kernel),
    keygenAt_control _ _ _ (by simp) (by decide), exists_next (by decide +kernel),
    keygenAt_control _ _ _ (by simp) (by decide), exists_next (by decide +kernel),
    keygenAt_control _ _ _ (by simp) (by decide), exists_next (by decide +kernel), exists_next (by decide +kernel)⟩

/-! ### Invariants -/

theorem witness_StatusInvKept :
    idle.StatusInv ∧ ∃ t, step (pending [idle.writeAt 0x008 0x40] idle) = .next t ∧ t.status.err = true :=
  ⟨by decide, exists_next (by decide +kernel)⟩

theorem witness_MemInvKept :
    (pending [idle.writeAt 0x1000 9] (load [(15, 3)] idle)).MemInv ∧
    ∃ t, step (pending [idle.writeAt 0x1000 9] (load [(15, 3)] idle)) = .next t ∧ t.written 0 0 = true :=
  ⟨by decide +kernel, exists_next (by decide +kernel)⟩

/-- KEYGEN with both units searching. -/
def searching : State := { keygenAt .searchingPrimes 16 .empty with unit0 := .searching 8, unit1 := unitWith 8 true false 241 }

theorem witness_ControlInvKept :
    searching.ControlInv ∧
    ∃ t, step (draws [200, 2] [] searching) = .next t ∧ t.cntPg0 = 1 ∧ t.status.state = .searchingPrimes :=
  ⟨⟨by decide, by decide +kernel, ⟨rfl, by decide⟩, ⟨rfl, rfl, nofun, nofun⟩,
      ⟨rfl, rfl, nofun, fun _ => ⟨by decide, by decide, { answers := [2, 2, 2, 2, 2], taken := 0 }, by decide +kernel⟩⟩,
      rfl, rfl, rfl, rfl⟩, exists_next (by decide +kernel)⟩

theorem witness_KeyInvKept :
    (keygenAt .computingModulus 16 keyPrimes).ControlInv ∧ (keygenAt .computingModulus 16 keyPrimes).KeyInv ∧
    ∃ t, step (keygenAt .computingModulus 16 keyPrimes) = .next t ∧ t.seq.key = keyModulus :=
  ⟨keygenAt_control _ _ _ (by simp) (by decide), keygenAt_primes _ _ _ (by decide) (by decide +kernel) (by decide +kernel), exists_next (by decide +kernel)⟩

theorem witness_CapInvKept :
    ({ searching with latch := { searching.latch with candCap := 1 } } : State).CapInv ∧
    ∃ t, step (draws [200, 2] [] { searching with latch := { searching.latch with candCap := 1 } }) = .next t ∧
      t.cntPg0 = 1 :=
  ⟨by decide, exists_next (by decide +kernel)⟩

end Sys2Proof.Tests
end

section
/-! PROOFS. The statements of 00_scope.md: a step is one enabled agent's, the two units share nothing, the round of MR_ROUND,
and the errors by command. -/

namespace Sys2Proof

/-- The errors the sequencer's step of a running command can end with (60_exceptions.md R115). -/
def Instr.runErrors : Instr → List Machine.ErrCode
  | .lcm _ _ _ => [.overflow]
  | .modinv _ _ _ => [.notCoprime]
  | .genPrime _ => [.attemptCap]
  | .keygen => [.notCoprime, .attemptCap]
  | .modexp _ _ _ _ | .gcd _ _ _ | .mrRound _ _ _ | .mrRoundW _ _ _ _ | .isPrime _ _ | .rsaep _ _ _ _ => []

end Sys2Proof

namespace Sys2Proof.Machine

/-! ### Every step is one enabled agent's -/

theorem State.enabled_eq_nil {s : State} (h : s.enabled = []) (a : Agent) : s.agentEnabled a = false := by
  rw [← Bool.not_eq_true, ← State.mem_enabled, h]
  exact List.not_mem_nil

/-- Settles O7, by the inversion of one step (`step_cases`). -/
theorem stepIsOneEnabledAgents : Obligations.StepIsOneEnabledAgents := by
  intro s
  rcases step_cases s with ⟨hnone, hstep⟩ | ⟨a, ts, k, ha, hstep⟩
  · exact .inl ⟨State.enabled_eq_nil hnone, hstep⟩
  · exact .inr ⟨a, ts, k, State.mem_enabled.mp ha, hstep⟩

/-! ### What one unit owns -/

/-- All of the state that belongs to one unit: CNT_PGu, RNGu as the model sees it, and the unit's private state
(00_scope.md R9, 10_state.md R33, R37). -/
structure UnitPart where
  cnt : Word
  src : Source
  own : UnitState

/-- The part of the state that belongs to a unit. -/
def State.part (s : State) (u : UnitId) : UnitPart := { cnt := s.cntPg u, src := s.rng u, own := s.unit u }

/-- The state with the part of one unit replaced. -/
def State.setPart (s : State) (u : UnitId) (p : UnitPart) : State :=
  match u with
  | .u0 => { s with cntPg0 := p.cnt, rng0 := p.src, unit0 := p.own }
  | .u1 => { s with cntPg1 := p.cnt, rng1 := p.src, unit1 := p.own }

@[simp] theorem State.setPart_latch (s : State) (u : UnitId) (p : UnitPart) : (s.setPart u p).latch = s.latch := by
  cases u <;> rfl

@[simp] theorem State.setPart_part (s : State) (u v : UnitId) (p : UnitPart) :
    (s.setPart u p).part v = if v = u then p else s.part v := by cases u <;> cases v <;> rfl

/-- Replacing a unit's part, in the terms of the model's own updates. -/
theorem State.setPart_eq_setRng_setUnit (s : State) (u : UnitId) (p : UnitPart) :
    s.setPart u p =
      ((({ s with cntPg0 := (s.setPart u p).cntPg0, cntPg1 := (s.setPart u p).cntPg1 } : State).setRng u
        ((s.setPart u p).rng u)).setUnit u ((s.setPart u p).unit u)) := by
  cases u <;> rfl

theorem State.setPart_comm (s : State) (p q : UnitPart) :
    (s.setPart .u0 p).setPart .u1 q = (s.setPart .u1 q).setPart .u0 p := rfl

/-- The frame of a search step: only its unit's part moves. -/
theorem State.searchStep_eq_setPart (u : UnitId) (s : State) :
    s.searchStep u = s.setPart u ((s.searchStep u).part u) := by
  rcases State.searchStep_cases u s with ⟨-, -, h⟩ | ⟨-, w, t, -, -, h⟩
  · rw [h]; cases u <;> rfl
  · rw [h]; cases u <;> rfl

/-- A search step is local: what it makes of its unit's part depends on that part and on CAND_LAT only. -/
theorem State.searchStep_part_congr {u : UnitId} {s t : State} (hp : t.part u = s.part u) (hl : t.latch = s.latch) :
    (t.searchStep u).part u = (s.searchStep u).part u := by
  obtain ⟨hcnt, hsrc, hown⟩ := UnitPart.mk.inj hp
  unfold State.searchStep
  simp only [hl, hcnt, hsrc, hown]
  split <;> simp [State.part, hcnt, hsrc]

/-- A search step leaves the other unit's part as it was. -/
theorem State.searchStep_part_of_ne {u v : UnitId} (s : State) (h : v ≠ u) : (s.searchStep u).part v = s.part v := by
  rw [State.searchStep_eq_setPart, State.setPart_part, if_neg h]

/-- Two steps of different units come to both parts replaced, each by what its unit makes of the first state. -/
theorem State.searchStep_searchStep_of_ne {u v : UnitId} (s : State) (h : v ≠ u) :
    (s.searchStep u).searchStep v =
      (s.setPart u ((s.searchStep u).part u)).setPart v ((s.searchStep v).part v) := by
  have hlatch : (s.searchStep u).latch = s.latch := by rw [State.searchStep_eq_setPart, State.setPart_latch]
  calc (s.searchStep u).searchStep v
      = (s.searchStep u).setPart v (((s.searchStep u).searchStep v).part v) := State.searchStep_eq_setPart v _
    _ = (s.searchStep u).setPart v ((s.searchStep v).part v) := by
      rw [State.searchStep_part_congr (State.searchStep_part_of_ne s h) hlatch]
    _ = _ := by rw [← State.searchStep_eq_setPart u s]

/-- Settles O52: a search step moves its unit's part alone and looks at nothing else but the latch, so two units' steps
replace two separate parts, in either order. -/
theorem unitsShareNothing : Obligations.UnitsShareNothing := by
  refine ⟨fun s u => ⟨?frame, fun v hv => ?other⟩, fun s => ?commute⟩
  case frame =>
    rw [State.searchStep_eq_setPart u s]
    exact State.setPart_eq_setRng_setUnit s u _
  case other => exact congrArg UnitPart.cnt (State.searchStep_part_of_ne s hv)
  case commute =>
    rw [State.searchStep_searchStep_of_ne s (by decide : UnitId.u1 ≠ .u0),
      State.searchStep_searchStep_of_ne s (by decide : UnitId.u0 ≠ .u1), State.setPart_comm]

/-! ### A command's result over its two phases -/

/-- A command that starts in EXEC, issued in its domain, takes its execution step next (50_host_interface.md R106, R108). -/
theorem exec_issue_run {i : Instr} {s : State} (hb : s.status.busy = false) (hstart : i.start = State.startExec)
    (ho : i.outside s.params (i.sources.latch s) = false) :
    exec i s = .next (s.latched i.sources).startExec ∧
    exec i (s.latched i.sources).startExec = .next (i.run (s.latched i.sources).startExec) := by
  constructor
  · rw [exec_of_idle i hb, State.issue_starts ho, hstart]
  · exact exec_of_busy i rfl

/-- x[rd] after the commit of a W-bit value to rd (10_state.md R18). -/
theorem State.readBr_commit (s : State) {rd v : Nat} (r : Bool) (hv : v < 2 ^ s.params.maxBits) :
    (s.commit [(rd, v)] r).readBr rd = v :=
  State.readBr_writeBr_same (State.commit_params s _ r) (State.commit_mem s _ r) hv

theorem Params.toNat_lt_two_pow_maxBits (p : Params) (b : Bool) : b.toNat < 2 ^ p.maxBits := by
  have hw : p.maxBits ≠ 0 := by have := p.maxWords_pos; simp only [Params.maxBits]; omega
  exact lt_of_le_of_lt b.toNat_le (Nat.one_lt_two_pow hw)

/-! ### Draws -/

/-- A draw that finds no queued answer takes one free answer (00_scope.md R13; log entry 4). -/
theorem Source.draw_of_nil (u : UnitId) (lo hi : Nat) {src : Source} (h : src.answers = []) :
    src.draw u lo hi = (drawIn lo hi (Config.rng u src.taken), { answers := [], taken := src.taken + 1 }) := by
  obtain ⟨answers, taken⟩ := src
  subst h
  rfl

/-- A draw that finds a queued answer takes it, and brings it into the range (00_scope.md R13; log entry 4). -/
theorem Source.draw_of_cons (u : UnitId) (lo hi : Nat) {v : Nat} {rest : List Nat} {src : Source} (h : src.answers = v :: rest) :
    src.draw u lo hi = (drawIn lo hi v, { src with answers := rest }) := by
  obtain ⟨answers, taken⟩ := src
  subst h
  rfl

/-- MR_ROUND's execution step commits the verdict for the witness drawn and moves RNG0 on (42_primality.md R81). -/
theorem runMrRound_eq_commit (rd : Nat) (s : State) :
    runMrRound rd s =
      (s.setRng .u0 (s.rng0.draw .u0 2 (s.latch.op2 - 2)).2).commit
        [(rd, (mrCore (s.rng0.draw .u0 2 (s.latch.op2 - 2)).1 s.latch.op1 s.latch.op2).toNat)]
        (mrCore (s.rng0.draw .u0 2 (s.latch.op2 - 2)).1 s.latch.op1 s.latch.op2) := rfl

/-- Settles O30: the witness is RNG0's draw from [2, n-2] in the execution step. -/
theorem mrRoundResult : Obligations.MrRoundResult := by
  intro s rd rs1 rs2 d n hb hd hn h5
  subst hd hn
  have hdomain : (Instr.mrRound rd rs1 rs2).outside s.params ((Instr.mrRound rd rs1 rs2).sources.latch s) = false :=
    decide_eq_false (Nat.not_lt.mpr h5)
  obtain ⟨hissue, hrun⟩ := exec_issue_run hb rfl hdomain
  obtain ⟨hlo, hhi⟩ := Source.draw_mem .u0 s.rng0 (show 2 ≤ s.readBr rs2 - 2 by omega)
  refine ⟨_, _, (s.rng0.draw .u0 2 (s.readBr rs2 - 2)).1, hissue, rfl,
    hrun.trans (congrArg _ (runMrRound_eq_commit rd _)), hlo, hhi, ?verdict, rfl, rfl, fun hnil => ?free,
    fun v rest hcons => ⟨?queued, fun h2 hle => ?inRange⟩⟩
  case verdict =>
    refine (State.readBr_commit _ _ (Params.toNat_lt_two_pow_maxBits _ _)).trans ?_
    exact Bool.cond_eq_ite _ 1 0
  case free => exact congrArg Prod.snd (Source.draw_of_nil .u0 2 (s.readBr rs2 - 2) hnil)
  case queued => exact congrArg Prod.snd (Source.draw_of_cons .u0 2 (s.readBr rs2 - 2) hcons)
  case inRange => rw [Source.draw_of_cons .u0 2 (s.readBr rs2 - 2) hcons]; exact drawIn_self h2 hle

/-! ### Errors by command -/

/-- LCM's execute step commits or ends with OVERFLOW (41_number_theory.md R74). -/
theorem runLcm_errCode (rd : Nat) (s : State) :
    (runLcm rd s).status.errCode = .noError ∨ (runLcm rd s).status.errCode = .overflow := by
  unfold runLcm
  split
  · exact .inr rfl
  · exact .inl rfl

/-- MODINV's execute step commits or ends with NOT_COPRIME (41_number_theory.md R75). -/
theorem runModinv_errCode (rd : Nat) (s : State) :
    (runModinv rd s).status.errCode = .noError ∨ (runModinv rd s).status.errCode = .notCoprime := by
  unfold runModinv
  split
  · exact .inl rfl
  · exact .inr rfl

section
variable {s : State} (h0 : s.status.errCode = .noError)
include h0

/-- GEN_PRIME's sequencer step raises ATTEMPT_CAP or no error (43_prime_generator.md R92). -/
theorem runGenPrime_errCode (rd : Nat) :
    (runGenPrime rd s).status.errCode = .noError ∨ (runGenPrime rd s).status.errCode = .attemptCap := by
  unfold runGenPrime
  split_ifs
  · exact .inr rfl
  · exact .inl rfl
  · exact .inl h0

/-- The join raises ATTEMPT_CAP or no error (44_keypair_fsm.md R94). -/
theorem keygenJoin_errCode :
    (keygenJoin s).status.errCode = .noError ∨ (keygenJoin s).status.errCode = .attemptCap := by
  unfold keygenJoin
  split_ifs
  · exact .inr rfl
  · exact .inl h0
  · exact .inl h0

/-- VALIDATING_EXPONENT raises ATTEMPT_CAP or no error (44_keypair_fsm.md R96). -/
theorem keygenValidate_errCode :
    (keygenValidate s).status.errCode = .noError ∨ (keygenValidate s).status.errCode = .attemptCap := by
  unfold keygenValidate
  dsimp only
  split_ifs
  · exact .inr rfl
  · exact .inl h0
  · exact .inl h0

/-- COMPUTING_PRIVATE_EXPONENT raises NOT_COPRIME or no error (44_keypair_fsm.md R98). -/
theorem keygenPrivate_errCode :
    (keygenPrivate s).status.errCode = .noError ∨ (keygenPrivate s).status.errCode = .notCoprime := by
  unfold keygenPrivate
  dsimp only
  split
  · exact .inr rfl
  · split
    · exact .inr rfl
    · exact .inl h0

/-- A step of KEYGEN raises NOT_COPRIME, ATTEMPT_CAP or no error, state by state (44_keypair_fsm.md R101). -/
theorem runKeygen_errCode :
    (runKeygen s).status.errCode = .noError ∨ (runKeygen s).status.errCode = .notCoprime ∨
      (runKeygen s).status.errCode = .attemptCap := by
  unfold runKeygen
  cases s.status.state with
  | searchingPrimes => exact (keygenJoin_errCode h0).imp_right .inr
  | validatingExponent => exact (keygenValidate_errCode h0).imp_right .inr
  | computingPrivateExponent => exact (keygenPrivate_errCode h0).imp_right .inl
  | done => exact .inl rfl
  | idle | exec | computingModulus => exact .inl h0

/-- A running command's step raises no error but those of `Instr.runErrors`. -/
theorem Instr.run_errCode (i : Instr) :
    (i.run s).status.errCode = .noError ∨ (i.run s).status.errCode ∈ i.runErrors := by
  cases i with
  | lcm rd _ _ => simpa only [Instr.run, Instr.runErrors, List.mem_singleton] using runLcm_errCode rd s
  | modinv rd _ _ => simpa only [Instr.run, Instr.runErrors, List.mem_singleton] using runModinv_errCode rd s
  | genPrime rd => simpa only [Instr.run, Instr.runErrors, List.mem_singleton] using runGenPrime_errCode h0 rd
  | keygen => simpa only [Instr.run, Instr.runErrors, List.mem_pair] using runKeygen_errCode h0
  | modexp | gcd | mrRound | mrRoundW | isPrime | rsaep => exact .inl rfl

/-- Everything exec can leave in ERRCODE: nothing, DOMAIN at an issue whose domain check fails, or an error of the running
command's own step. -/
theorem exec_errCode {i : Instr} {t : State} (h : exec i s = .next t) :
    t.status.errCode = .noError ∨
    (t.status.errCode = .domain ∧ i.outside s.params (i.sources.latch s) = true) ∨
    t.status.errCode ∈ i.runErrors := by
  rcases exec_cases h with ⟨-, ⟨hout, rfl⟩ | ⟨-, rfl⟩⟩ | ⟨-, rfl⟩
  · exact .inr (.inl ⟨rfl, hout⟩)
  · cases i <;> exact .inl h0
  · exact (Instr.run_errCode h0 i).imp_right .inr

end

/-- Settles O47, command by command: DOMAIN comes from the issue alone, the other errors from `Instr.runErrors`. -/
theorem errorsByCommand : Obligations.ErrorsByCommand := by
  intro i s t h0 h
  rcases exec_errCode h0 h with he | ⟨he, hout⟩ | he
  · simp [he]
  · refine ⟨by simp [he], fun _ rd rs1 hi => ?_, by simp [he], by simp [he], by simp [he]⟩
    subst hi
    exact absurd hout Bool.false_ne_true
  · cases i with
    | lcm | modinv | genPrime => simp [List.mem_singleton.mp he]
    | keygen => rcases List.mem_pair.mp he with he | he <;> simp [he]
    | modexp | gcd | mrRound | mrRoundW | isPrime | rsaep => exact absurd he List.not_mem_nil

end Sys2Proof.Machine
end

section
/-! PROOFS. Shared facts for the statements of 10_state.md: the registers a decoded command names, what a command's start and
step move, and who takes the next step. -/

namespace Sys2Proof

theorem field_four_lt (w : Word) (lo : Nat) : field w lo 4 < 16 := Nat.mod_lt _ (by decide)

/-- The registers of a word that decodes are 4-bit fields of it (30_encoding.md R58, R62). -/
theorem wellFormed_of_decode {w : Word} {i : Instr} (h : decode w = .ok i) : i.WellFormed := by
  obtain ⟨o, -, -, -, -, -, -, rfl⟩ := fields_of_decode h
  cases o <;> simp [Opcode.instr, Instr.WellFormed, Instr.indexes, field_four_lt]

/-- Every destination is the RD of the command, or one of KEYGEN's BR0 to BR8 (10_state.md R18). -/
theorem Instr.WellFormed.destRegs_lt {i : Instr} (h : i.WellFormed) : ∀ k ∈ i.destRegs, k < 16 := by
  cases i with
  | keygen => decide
  | modexp | gcd | lcm | modinv | mrRound | mrRoundW | isPrime | genPrime | rsaep =>
    intro k hk
    exact h k (List.mem_singleton.mp hk ▸ List.mem_cons_self)

end Sys2Proof

namespace Sys2Proof.Machine

/-! ### What a command's start moves: STATUS and the units (50_host_interface.md R106) -/

@[simp] theorem Instr.params_start (i : Instr) (s : State) : (i.start s).params = s.params := by cases i <;> rfl
@[simp] theorem Instr.mem_start (i : Instr) (s : State) : (i.start s).mem = s.mem := by cases i <;> rfl
@[simp] theorem Instr.writtenBits_start (i : Instr) (s : State) : (i.start s).writtenBits = s.writtenBits := by cases i <;> rfl
@[simp] theorem Instr.cmd_start (i : Instr) (s : State) : (i.start s).cmd = s.cmd := by cases i <;> rfl
@[simp] theorem Instr.irqEn_start (i : Instr) (s : State) : (i.start s).irqEn = s.irqEn := by cases i <;> rfl
@[simp] theorem Instr.bitsize_start (i : Instr) (s : State) : (i.start s).bitsize = s.bitsize := by cases i <;> rfl
@[simp] theorem Instr.irq_start (i : Instr) (s : State) : (i.start s).irq = s.irq := by cases i <;> rfl
@[simp] theorem Instr.candCap_start (i : Instr) (s : State) : (i.start s).candCap = s.candCap := by cases i <;> rfl
@[simp] theorem Instr.restartCap_start (i : Instr) (s : State) : (i.start s).restartCap = s.restartCap := by cases i <;> rfl
@[simp] theorem Instr.cntPg0_start (i : Instr) (s : State) : (i.start s).cntPg0 = s.cntPg0 := by cases i <;> rfl
@[simp] theorem Instr.cntPg1_start (i : Instr) (s : State) : (i.start s).cntPg1 = s.cntPg1 := by cases i <;> rfl
@[simp] theorem Instr.cntRestart_start (i : Instr) (s : State) : (i.start s).cntRestart = s.cntRestart := by cases i <;> rfl
@[simp] theorem Instr.latch_start (i : Instr) (s : State) : (i.start s).latch = s.latch := by cases i <;> rfl
@[simp] theorem Instr.seq_start (i : Instr) (s : State) : (i.start s).seq = s.seq := by cases i <;> rfl
@[simp] theorem Instr.unwrittenRead_start (i : Instr) (s : State) : (i.start s).unwrittenRead = s.unwrittenRead := by cases i <;> rfl
@[simp] theorem Instr.bus_start (i : Instr) (s : State) : (i.start s).bus = s.bus := by cases i <;> rfl
@[simp] theorem Instr.resp_start (i : Instr) (s : State) : (i.start s).resp = s.resp := by cases i <;> rfl
@[simp] theorem Instr.turns_start (i : Instr) (s : State) : (i.start s).turns = s.turns := by cases i <;> rfl
@[simp] theorem Instr.schedTaken_start (i : Instr) (s : State) : (i.start s).schedTaken = s.schedTaken := by cases i <;> rfl
@[simp] theorem Instr.rng0_start (i : Instr) (s : State) : (i.start s).rng0 = s.rng0 := by cases i <;> rfl
@[simp] theorem Instr.rng1_start (i : Instr) (s : State) : (i.start s).rng1 = s.rng1 := by cases i <;> rfl

/-- A started command is busy in EXEC, or in SEARCHING_PRIMES for KEYGEN (50_host_interface.md R106). -/
theorem Instr.status_start (i : Instr) (s : State) :
    (i.start s).status = s.status.started (if i = .keygen then .searchingPrimes else .exec) := by
  cases i <;> rfl

/-! ### What the sequencer's step of a running command moves -/

/-- What the sequencer's step of a running command leaves as it was: the CSRs the host owns, WBUSY_P, the counters of the
units, the record of an unwritten read, RNG1 and the world outside (50_host_interface.md R109). -/
theorem Instr.run_frame (i : Instr) (s : State) :
    i.run s = { s with
      mem := (i.run s).mem, writtenBits := (i.run s).writtenBits, status := (i.run s).status
      irq := { s.irq with doneP := (i.run s).irq.doneP }, cntRestart := (i.run s).cntRestart
      latch := (i.run s).latch, unit0 := (i.run s).unit0, unit1 := (i.run s).unit1, seq := (i.run s).seq
      rng0 := (i.run s).rng0 } := by
  rcases Instr.run_cases i s with h | ⟨e, -, h⟩ | ⟨rd, v, r, src, -, -, h⟩ | ⟨-, -, h⟩ | ⟨-, st, k, t, h⟩ | ⟨-, st, k, h⟩ |
    ⟨-, k, t, h⟩ <;> rw [h] <;> rfl

@[simp] theorem Instr.params_run (i : Instr) (s : State) : (i.run s).params = s.params := by rw [Instr.run_frame]
@[simp] theorem Instr.cmd_run (i : Instr) (s : State) : (i.run s).cmd = s.cmd := by rw [Instr.run_frame]
@[simp] theorem Instr.irqEn_run (i : Instr) (s : State) : (i.run s).irqEn = s.irqEn := by rw [Instr.run_frame]
@[simp] theorem Instr.bitsize_run (i : Instr) (s : State) : (i.run s).bitsize = s.bitsize := by rw [Instr.run_frame]
@[simp] theorem Instr.candCap_run (i : Instr) (s : State) : (i.run s).candCap = s.candCap := by rw [Instr.run_frame]
@[simp] theorem Instr.restartCap_run (i : Instr) (s : State) : (i.run s).restartCap = s.restartCap := by rw [Instr.run_frame]
@[simp] theorem Instr.cntPg0_run (i : Instr) (s : State) : (i.run s).cntPg0 = s.cntPg0 := by rw [Instr.run_frame]
@[simp] theorem Instr.cntPg1_run (i : Instr) (s : State) : (i.run s).cntPg1 = s.cntPg1 := by rw [Instr.run_frame]
@[simp] theorem Instr.unwrittenRead_run (i : Instr) (s : State) : (i.run s).unwrittenRead = s.unwrittenRead := by rw [Instr.run_frame]
@[simp] theorem Instr.bus_run (i : Instr) (s : State) : (i.run s).bus = s.bus := by rw [Instr.run_frame]
@[simp] theorem Instr.resp_run (i : Instr) (s : State) : (i.run s).resp = s.resp := by rw [Instr.run_frame]
@[simp] theorem Instr.turns_run (i : Instr) (s : State) : (i.run s).turns = s.turns := by rw [Instr.run_frame]
@[simp] theorem Instr.schedTaken_run (i : Instr) (s : State) : (i.run s).schedTaken = s.schedTaken := by rw [Instr.run_frame]
@[simp] theorem Instr.rng1_run (i : Instr) (s : State) : (i.run s).rng1 = s.rng1 := by rw [Instr.run_frame]
@[simp] theorem Instr.wbusyP_run (i : Instr) (s : State) : (i.run s).irq.wbusyP = s.irq.wbusyP := by rw [Instr.run_frame]

/-- What the sequencer's step of a running command does to the big registers: nothing, and then the block stays busy or ends
with an error; or the commit of the command's registers (10_state.md R18, 50_host_interface.md R109). -/
theorem Instr.run_big_cases (i : Instr) (s : State) :
    ((i.run s).mem = s.mem ∧ (i.run s).writtenBits = s.writtenBits ∧
      (s.status.busy = true → (i.run s).status.busy = true ∨ (i.run s).status.err = true)) ∨
    ∃ ws r, ws.map Prod.fst = i.destRegs ∧ (i.run s).mem = s.mem.writeBrs s.params ws ∧
      (i.run s).writtenBits = s.writtenBits.markBrs s.params ws ∧ (i.run s).status = .committed r := by
  rcases Instr.run_cases i s with h | ⟨e, -, h⟩ | ⟨rd, v, r, src, -, hd, h⟩ | ⟨rfl, -, h⟩ | ⟨-, st, k, t, h⟩ |
    ⟨-, st, k, h⟩ | ⟨-, k, t, h⟩ <;> rw [h]
  case inl => exact .inl ⟨rfl, rfl, .inl⟩
  case inr.inl => exact .inl ⟨rfl, rfl, fun _ => .inr rfl⟩
  case inr.inr.inl => exact .inr ⟨[(rd, v)], r, hd.symm, rfl, rfl, rfl⟩
  case inr.inr.inr.inl => exact .inr ⟨s.seq.key.results, false, rfl, rfl, rfl, rfl⟩
  case inr.inr.inr.inr.inl => exact .inl ⟨rfl, rfl, .inl⟩
  case inr.inr.inr.inr.inr.inl => exact .inl ⟨rfl, rfl, .inl⟩
  case inr.inr.inr.inr.inr.inr => exact .inl ⟨rfl, rfl, fun _ => .inl rfl⟩

/-! ### A command word written to an idle block -/

/-- The write of a legal word to CMD of an idle block is exec of it, in the state that has accepted the word
(50_host_interface.md R106). -/
theorem State.perform_writeAt_cmd {s : State} {w : Word} {i : Instr} (hb : s.status.busy = false) (hi : decode w = .ok i) :
    s.perform (s.writeAt 0x008 w) = exec i ((s.answer .written).acceptWord w) := by
  have hplace : placeAt 0x008 = .cmd := rfl
  rw [State.perform_writeAt (by decide) (by decide), hplace]
  simp [State.writePlace, State.writeCmd, hb, hi]

/-! ### Who takes the next step -/

/-- A queued turn is taken by the agent it names, where that agent is enabled, whatever else is (log entry 6). -/
theorem step_of_turn {s : State} {a : Agent} {ts : List Agent} (ht : s.turns = a :: ts) (ha : s.agentEnabled a = true) :
    step s = ({ s with turns := ts } : State).agentStep a := by
  have hmem : a ∈ s.enabled := State.mem_enabled.mpr ha
  unfold step State.advance
  split
  · next hnil => exact absurd (hnil ▸ hmem) List.not_mem_nil
  · next b bs hcons =>
    have hchoose : s.choose b bs = (a, { s with turns := ts }) := by
      simp [State.choose, ht, hcons ▸ hmem]
    rw [hchoose]

/-- The only enabled agent takes the step, and the next queued turn is used up (log entry 6). -/
theorem step_of_only_enabled {s : State} {a : Agent} (ha : s.agentEnabled a = true)
    (hother : ∀ b, b ≠ a → s.agentEnabled b = false) :
    step s = ({ s with turns := s.turns.tail } : State).agentStep a := by
  have henabled : s.enabled = [a] := by
    unfold State.enabled
    cases a with
    | unit u => cases u <;> simp [ha, hother]
    | host | seq => simp [ha, hother]
  have hchoose : s.choose a [] = (a, { s with turns := s.turns.tail }) := by
    cases ht : s.turns with
    | nil => simp [State.choose, State.chooseFree, ht]; rw [← ht]
    | cons t ts => simp [State.choose, State.chooseFree, ht]
  unfold step State.advance
  rw [henabled]
  dsimp only
  rw [hchoose]

end Sys2Proof.Machine
end

section
/-! PROOFS. The big registers (10_state.md R17 to R19): the three ways a step changes them, and that every step keeps their
bytes canonical and within the written words. -/

namespace Sys2Proof.Machine

/-! ### Where a byte of a big register stands -/

/-- The bytes of word j of BRi are storage, and their offsets name that word (20_memory.md R43). -/
theorem storageByte_of_word {s : State} {a i j : Nat} (hi : i < 16) (hj : j < s.params.maxWords) (hlo : wordOffset i j ≤ a)
    (hhi : a < wordOffset i j + 4) :
    s.storageByte a ∧ (a - 0x1000) / 0x200 = i ∧ (a - 0x1000) % 0x200 / 4 = j := by
  have := s.params.maxWords_le
  simp only [wordOffset] at hlo hhi
  simp only [State.storageByte, State.brBytes]
  omega

/-- Every byte of BRi that holds bits is one of a word of BRi (20_memory.md R43). -/
theorem exists_word_of_brOffset {p : Params} {a i : Nat} (hlo : brOffset i ≤ a) (hhi : a < brOffset i + 4 * p.maxWords) :
    ∃ j < p.maxWords, wordOffset i j ≤ a ∧ a < wordOffset i j + 4 := by
  refine ⟨(a - brOffset i) / 4, ?_⟩
  simp only [brOffset, wordOffset] at *
  omega

/-- A listed byte after registers were written was listed before, or is a byte of one of them. -/
theorem Memory.mem_writeBrs {p : Params} {m : Memory} {ws : List (Nat × Nat)} {c : Host.Cell} (h : c ∈ m.writeBrs p ws) :
    c ∈ m ∨ ∃ k ∈ ws.map Prod.fst, brOffset k ≤ c.1 ∧ c.1 < brOffset k + 4 * p.maxWords := by
  induction ws generalizing m with
  | nil => exact .inl h
  | cons w ws ih =>
    rcases ih h with h | ⟨k, hk, hc⟩
    · rcases Memory.mem_splice h with h | hc
      · exact .inl h
      · exact .inr ⟨w.1, by simp, by simpa using hc⟩
    · exact .inr ⟨k, List.mem_cons_of_mem _ hk, hc⟩

/-! ### The ways a step changes them -/

/-- An issue leaves the big registers as they are (50_host_interface.md R107). -/
theorem exec_big_of_idle {i : Instr} {s t : State} (hb : s.status.busy = false) (h : exec i s = .next t) :
    t.params = s.params ∧ t.mem = s.mem ∧ t.writtenBits = s.writtenBits := by
  rcases exec_cases h with ⟨-, ⟨-, rfl⟩ | ⟨-, rfl⟩⟩ | ⟨hb', -⟩
  · simp
  · simp
  · exact absurd (hb.symm.trans hb') Bool.false_ne_true

/-- The four ways a step can change the big registers and their written bits (10_state.md R17 to R19). -/
inductive BigStep (s t : State) : Prop
  /-- Nothing moves. -/
  | same (hm : t.mem = s.mem) (hw : t.writtenBits = s.writtenBits)
  /-- A hardware reset (70_reset_and_hazards.md R129). -/
  | reset (hbus : s.bus.head? = some .hardReset) (hm : t.mem = []) (hw : t.writtenBits = 0)
  /-- A host write to a word of an idle block (20_memory.md R43). -/
  | host (i j : Nat) (w : Word) (hidle : s.status.busy = false) (hi : i < 16) (hj : j < s.params.maxWords)
    (hbus : s.bus.head? = some (s.writeAt (wordOffset i j) w)) (hm : t.mem = s.mem.writeWord (wordOffset i j) w)
    (hw : t.writtenBits = s.writtenBits.markWord i j)
  /-- The commit of the command in CMD (50_host_interface.md R109). -/
  | commit (i : Instr) (ws : List (Nat × Nat)) (r : Bool) (hbusy : s.status.busy = true) (hi : decode s.cmd = .ok i)
    (hws : ws.map Prod.fst = i.destRegs) (hst : t.status = .committed r) (hm : t.mem = s.mem.writeBrs s.params ws)
    (hw : t.writtenBits = s.writtenBits.markBrs s.params ws)

/-- What a host access does to the big registers: nothing, a hardware reset, or a host write to a word of an idle block. -/
theorem State.perform_big_cases {s t : State} {op : BusOp} (h : s.perform op = .next t) :
    t.params = s.params ∧
    ((t.mem = s.mem ∧ t.writtenBits = s.writtenBits) ∨
      (op = .hardReset ∧ t.mem = [] ∧ t.writtenBits = 0) ∨
      ∃ i j w, s.status.busy = false ∧ i < 16 ∧ j < s.params.maxWords ∧ op = s.writeAt (wordOffset i j) w ∧
        t.mem = s.mem.writeWord (wordOffset i j) w ∧ t.writtenBits = s.writtenBits.markWord i j) := by
  rcases State.perform_cases h with ⟨rfl, rfl⟩ | ⟨a, rfl⟩ | ⟨a, i, j, -, -, -, -, rfl⟩ | ⟨-, rfl⟩ | ⟨w, hb, -, h⟩ |
    ⟨w, -, rfl⟩ | ⟨w, -, rfl⟩ | ⟨b, -, rfl⟩ | ⟨c, d, -, rfl⟩ | ⟨i, j, w, hb, hi, hj, rfl, rfl⟩
  · simp
  · simp
  · simp
  · simp
  · rcases h with ⟨e, -, rfl⟩ | ⟨i, -, h⟩
    · simp
    · obtain ⟨hp, hm, hw⟩ := exec_big_of_idle (by simpa [Status.accepted] using hb) h
      exact ⟨hp, .inl ⟨hm, hw⟩⟩
  · unfold State.writeCtrl
    split <;> simp
  · simp
  · simp
  · simp
  · exact ⟨rfl, .inr (.inr ⟨i, j, w, hb, hi, hj, rfl, rfl, rfl⟩)⟩

/-- Every way a step can change the big registers. -/
theorem step_big_cases {s t : State} (h : step s = .next t) : t.params = s.params ∧ BigStep s t := by
  rcases step_next_cases h with rfl | ⟨ts, k, r, hr, ⟨op, rest, hbus, h⟩ | ⟨i, -, hi, h⟩ | ⟨u, -, rfl⟩ | rfl⟩
  · exact ⟨rfl, .same rfl rfl⟩
  · have hhead : s.bus.head? = some op := by rw [hbus]; rfl
    subst hr
    obtain ⟨hp, ⟨hm, hw⟩ | ⟨rfl, hm, hw⟩ | ⟨i, j, w, hidle, hi, hj, rfl, hm, hw⟩⟩ := State.perform_big_cases h
    · exact ⟨hp, .same hm hw⟩
    · exact ⟨hp, .reset hhead hm hw⟩
    · exact ⟨hp, .host i j w hidle hi hj hhead hm hw⟩
  · have hrp : r.params = s.params := by rw [hr]
    have hrm : r.mem = s.mem := by rw [hr]
    have hrw : r.writtenBits = s.writtenBits := by rw [hr]
    have hrb : r.status = s.status := by rw [hr]
    clear hr
    cases hb : s.status.busy with
    | false =>
      obtain ⟨hp, hm, hw⟩ := exec_big_of_idle (hrb ▸ hb) h
      exact ⟨hp.trans hrp, .same (hm.trans hrm) (hw.trans hrw)⟩
    | true =>
      rw [exec_of_busy i (hrb ▸ hb), Host.Outcome.next.injEq] at h
      subst h
      refine ⟨(Instr.params_run i r).trans hrp, ?_⟩
      rcases Instr.run_big_cases i r with ⟨hm, hw, -⟩ | ⟨ws, v, hws, hm, hw, hst⟩
      · exact .same (hm.trans hrm) (hw.trans hrw)
      · rw [hrp, hrm] at hm
        rw [hrp, hrw] at hw
        exact .commit i ws v hb hi hws hst hm hw
  · obtain ⟨hp, hm, hw, -⟩ := State.searchStep_frame u r
    subst hr
    exact ⟨hp, .same hm hw⟩
  · subst hr
    exact ⟨rfl, .same rfl rfl⟩

/-! ### The bytes stay canonical and written -/

section
variable {s t : State}

/-- A step keeps the invariant of the bytes where it keeps their form, lists no byte but those of stored words that are then
written, and loses no written bit. -/
theorem State.MemInv.of_growth (hs : s.MemInv) (hp : t.params = s.params) (hwf : t.mem.wf)
    (hnew : ∀ c ∈ t.mem, c ∈ s.mem ∨
      ∃ i j, i < 16 ∧ j < t.params.maxWords ∧ wordOffset i j ≤ c.1 ∧ c.1 < wordOffset i j + 4 ∧ t.written i j = true)
    (hkeep : ∀ i < 16, ∀ j < 128, s.written i j = true → t.written i j = true)
    (hstored : ∀ i < 16, ∀ j < 128, t.written i j = true → s.written i j = true ∨ j < t.params.maxWords) : t.MemInv := by
  obtain ⟨-, hcells, hbits⟩ := hs
  refine ⟨hwf, fun c hc => ?_, fun i hi j hj hw => ?_⟩
  · rcases hnew c hc with hold | ⟨i, j, hi, hj, hlo, hhi, hw⟩
    · obtain ⟨hst, hw⟩ := hcells c hold
      have ⟨hlo, hhi, _⟩ := hst
      exact ⟨by simpa [State.storageByte, State.brBytes, hp] using hst, hkeep _ (by omega) _ (by omega) hw⟩
    · obtain ⟨hst, hreg, hword⟩ := storageByte_of_word hi hj hlo hhi
      exact ⟨hst, by rw [hreg, hword]; exact hw⟩
  · exact (hstored i hi j hj hw).elim (fun h => hp ▸ hbits i hi j hj h) id

theorem State.MemInv.of_hostWrite (hs : s.MemInv) {i j : Nat} {w : Word} (hp : t.params = s.params) (hi : i < 16)
    (hj : j < s.params.maxWords) (hm : t.mem = s.mem.writeWord (wordOffset i j) w)
    (hw : t.writtenBits = s.writtenBits.markWord i j) : t.MemInv := by
  have := s.params.maxWords_le
  have hbit : ∀ k < 16, ∀ l < 128, t.written k l = (s.written k l || decide (k = i ∧ l = j)) := fun k hk l hl => by
    rw [State.written_eq, hw]; exact WrittenBits.markWord_get _ hk (by omega) hl
  refine hs.of_growth hp (hm ▸ Memory.writeWord_wf _ _ hs.1) (fun c hc => ?_) (fun k hk l hl h => ?_) (fun k hk l hl h => ?_)
  · rw [hm] at hc
    refine (Memory.mem_splice hc).imp_right fun ⟨hlo, hhi⟩ => ⟨i, j, hi, hp ▸ hj, hlo, by simpa using hhi, ?_⟩
    simp [hbit i hi j (by omega)]
  · simp [hbit k hk l hl, h]
  · rw [hbit k hk l hl] at h
    exact (Bool.or_eq_true _ _ ▸ h).imp_right fun h => by
      obtain ⟨-, rfl⟩ := of_decide_eq_true h
      exact hp ▸ hj

theorem State.MemInv.of_commit (hs : s.MemInv) {ws : List (Nat × Nat)} (hp : t.params = s.params)
    (hreg : ∀ k ∈ ws.map Prod.fst, k < 16) (hm : t.mem = s.mem.writeBrs s.params ws)
    (hw : t.writtenBits = s.writtenBits.markBrs s.params ws) : t.MemInv := by
  have := s.params.maxWords_le
  have hbit : ∀ k < 16, ∀ l < 128,
      t.written k l = (s.written k l || decide (k ∈ ws.map Prod.fst ∧ l < s.params.maxWords)) := fun k hk l hl => by
    rw [State.written_eq, hw]; exact WrittenBits.markBrs_get _ _ ws hk hl
  refine hs.of_growth hp (hm ▸ Memory.writeBrs_wf _ ws hs.1) (fun c hc => ?_) (fun k hk l hl h => ?_) (fun k hk l hl h => ?_)
  · rw [hm] at hc
    refine (Memory.mem_writeBrs hc).imp_right fun ⟨k, hk, hlo, hhi⟩ => ?_
    obtain ⟨j, hj, hword⟩ := exists_word_of_brOffset hlo hhi
    refine ⟨k, j, hreg k hk, hp ▸ hj, hword.1, hword.2, ?_⟩
    rw [hbit k (hreg k hk) j (by omega), decide_eq_true ⟨hk, hj⟩, Bool.or_true]
  · simp [hbit k hk l hl, h]
  · rw [hbit k hk l hl] at h
    exact (Bool.or_eq_true _ _ ▸ h).imp_right fun h => by
      obtain ⟨-, hl⟩ := of_decide_eq_true h
      exact hp ▸ hl

end

/-- Settles O57, way by way a step changes the big registers. -/
theorem memInvKept : Obligations.MemInvKept := by
  intro s t hs h
  obtain ⟨hp, hbig⟩ := step_big_cases h
  cases hbig with
  | same hm hw =>
    have hwritten : t.written = s.written := by funext i j; simp only [State.written_eq, hw]
    simpa only [State.MemInv, State.storageByte, State.brBytes, hp, hm, hwritten] using hs
  | reset _ hm hw =>
    have hclear : ∀ i j, t.written i j = false := fun i j => by rw [State.written_eq, hw]; exact BitVec.getLsbD_zero
    exact ⟨hm ▸ State.reset_mem_wf, by simp [hm], fun i _ j _ hset => absurd (hclear i j ▸ hset) Bool.false_ne_true⟩
  | host i j w _ hi hj _ hm hw => exact hs.of_hostWrite hp hi hj hm hw
  | commit i ws r _ hi hws _ hm hw =>
    exact hs.of_commit hp (hws ▸ (wellFormed_of_decode hi).destRegs_lt) hm hw

/-- Settles O53, way by way a step changes the big registers. -/
theorem bigRegistersChangeOnly : Obligations.BigRegistersChangeOnly := by
  intro s t h
  obtain ⟨hp, hbig⟩ := step_big_cases h
  dsimp only
  cases hbig with
  | same hm hw =>
    exact ⟨fun a ha => absurd (by rw [hm]) ha, fun k _ l _ hkl => absurd (by rw [State.written_eq, hw]; rfl) hkl⟩
  | reset hbus hm hw =>
    refine ⟨fun a _ => .inl hbus, fun k _ l _ _ => .inl ⟨hbus, ?_⟩⟩
    rw [State.written_eq, hw]
    exact BitVec.getLsbD_zero
  | host i j w hidle hi hj hbus hm hw =>
    have := s.params.maxWords_le
    refine ⟨fun a ha => .inr (.inl ⟨hidle, i, j, w, hi, hj, hbus, ?_⟩), fun k hk l hl hkl => .inr (.inl ?_)⟩
    · by_contra hout
      refine ha ?_
      rw [hm, Memory.writeWord, Memory.read_splice_of_outside (by simp only [leBytes_length]; omega)]
    · rw [State.written_eq, hw, WrittenBits.markWord_get _ hk (by omega) hl] at hkl ⊢
      by_cases hsame : k = i ∧ l = j
      · obtain ⟨rfl, rfl⟩ := hsame
        exact ⟨hidle, hj, ⟨w, hbus⟩, by simp⟩
      · exact absurd (by simp [hsame, State.written_eq]) hkl
  | commit i ws r hbusy hi hws hst hm hw =>
    have hdone : s.status.busy = true ∧ t.status.busy = false ∧ t.status.done = true ∧ t.status.err = false := by
      rw [hst]; exact ⟨hbusy, rfl, rfl, rfl⟩
    obtain ⟨h1, h2, h3, h4⟩ := hdone
    refine ⟨fun a ha => .inr (.inr ?_), fun k hk l hl hkl => .inr (.inr ?_)⟩
    · by_contra hout
      refine ha ?_
      rw [hm, Memory.read_writeBrs_of_outside]
      intro w hw
      by_contra hin
      refine hout ⟨w.1, ⟨h1, h2, h3, h4, i, hi, hws ▸ List.mem_map_of_mem hw⟩, ?_⟩
      simp only [State.brBytes]
      omega
    · rw [State.written_eq, hw, WrittenBits.markBrs_get _ _ ws hk hl] at hkl ⊢
      by_cases hin : k ∈ ws.map Prod.fst ∧ l < s.params.maxWords
      · exact ⟨⟨h1, h2, h3, h4, i, hi, hws ▸ hin.1⟩, hin.2, by rw [decide_eq_true hin, Bool.or_true]⟩
      · exact absurd (by rw [decide_eq_false hin, Bool.or_false]; rfl) hkl

end Sys2Proof.Machine
end

section
/-! PROOFS. STATUS and the control state (10_state.md R21, R28, R36 to R40): what a step does to them, the transitions of
STATUS.STATE, and that every step keeps their invariants. -/

namespace Sys2Proof.Machine

/-! ### The transitions of a running command -/

/-- The edges of the KEYGEN FSM between its own states (44_keypair_fsm.md R101). -/
inductive KeygenMove : SeqState → SeqState → Prop
  | join : KeygenMove .searchingPrimes .computingModulus
  | modulus : KeygenMove .computingModulus .validatingExponent
  | backEdge : KeygenMove .validatingExponent .searchingPrimes
  | exponent : KeygenMove .validatingExponent .computingPrivateExponent
  | privateExponent : KeygenMove .computingPrivateExponent .done

/-- Everything one step of a running KEYGEN can do, state by state: wait, end with an error (never in COMPUTING_MODULUS),
commit, or take an edge of the FSM (44_keypair_fsm.md R94 to R101). -/
theorem runKeygen_cases (s : State) :
    runKeygen s = s ∨
    (s.status.state ≠ .computingModulus ∧ ∃ e, e ≠ .noError ∧ runKeygen s = s.completeError e) ∨
    (s.status.state = .done ∧ runKeygen s = s.commit s.seq.key.results false) ∨
    (s.status.state = .searchingPrimes ∧ ∃ k, runKeygen s = s.stopUnits.moveTo .computingModulus k) ∨
    (∃ st k n, KeygenMove s.status.state st ∧ s.status.state ≠ .searchingPrimes ∧ st ≠ .searchingPrimes ∧
      runKeygen s = (s.setNt n).moveTo st k) ∨
    (s.status.state = .validatingExponent ∧ ∃ k n, runKeygen s = keygenRestart k (s.setNt n)) := by
  unfold runKeygen
  cases hst : s.status.state with
  | idle | exec => exact .inl rfl
  | searchingPrimes =>
    dsimp only
    unfold keygenJoin
    split_ifs
    · exact .inr (.inl ⟨nofun, .attemptCap, nofun, rfl⟩)
    · exact .inr (.inr (.inr (.inl ⟨rfl, _, rfl⟩)))
    · exact .inl rfl
  | computingModulus => exact .inr (.inr (.inr (.inr (.inl ⟨_, _, _, .modulus, nofun, nofun, rfl⟩))))
  | validatingExponent =>
    dsimp only
    unfold keygenValidate
    dsimp only
    split_ifs
    · exact .inr (.inl ⟨nofun, .attemptCap, nofun, rfl⟩)
    · exact .inr (.inr (.inr (.inr (.inr ⟨rfl, _, _, rfl⟩))))
    · exact .inr (.inr (.inr (.inr (.inl ⟨_, _, _, .exponent, nofun, nofun, rfl⟩))))
  | computingPrivateExponent =>
    dsimp only
    unfold keygenPrivate
    dsimp only
    split
    · exact .inr (.inl ⟨nofun, .notCoprime, nofun, rfl⟩)
    · split
      · exact .inr (.inl ⟨nofun, .notCoprime, nofun, rfl⟩)
      · exact .inr (.inr (.inr (.inr (.inl ⟨_, _, _, .privateExponent, nofun, nofun, rfl⟩))))
  | done => exact .inr (.inr (.inl ⟨rfl, rfl⟩))

theorem Instr.run_keygen (s : State) : Instr.keygen.run s = runKeygen s := rfl

/-- Every way a command other than KEYGEN can go in its sequencer's step: it waits, or it ends and nothing hidden is left. -/
theorem Instr.run_cases_of_ne_keygen {i : Instr} (hi : i ≠ .keygen) (s : State) :
    i.run s = s ∨
    ((∃ e, e ≠ .noError ∧ (i.run s).status = .failed e) ∨ ∃ r, (i.run s).status = .committed r) ∧ (i.run s).Quiet := by
  rcases Instr.run_cases i s with h | ⟨e, he, h⟩ | ⟨rd, v, r, src, -, -, h⟩ | ⟨hk, -⟩ | ⟨hk, -⟩ | ⟨hk, -⟩ | ⟨hk, -⟩
  · exact .inl h
  · exact .inr (h ▸ ⟨.inl ⟨e, he, rfl⟩, rfl, rfl, rfl, rfl⟩)
  · exact .inr (h ▸ ⟨.inr ⟨r, rfl⟩, rfl, rfl, rfl, rfl⟩)
  all_goals exact absurd hk hi

/-- Where BUSY is 1 already, entering a state only moves STATE. -/
theorem Status.started_of_busy (st : SeqState) {t : Status} (h : t.busy = true) : t.started st = { t with state := st } := by
  simp [Status.started, h]

/-- What STATUS holds after the sequencer's step of a running command. -/
theorem Instr.run_status_cases (i : Instr) {s : State} (hb : s.status.busy = true) :
    (i.run s).status = s.status ∨
    ((i = .keygen → s.status.state ≠ .computingModulus) ∧
      ((∃ e, e ≠ .noError ∧ (i.run s).status = .failed e) ∨ ∃ r, (i.run s).status = .committed r)) ∨
    ∃ st, KeygenMove s.status.state st ∧ (i.run s).status = { s.status with state := st } := by
  by_cases hi : i = .keygen
  · subst hi
    rw [Instr.run_keygen]
    rcases runKeygen_cases s with h | ⟨hst, e, he, h⟩ | ⟨hst, h⟩ | ⟨hst, k, h⟩ | ⟨st, k, n, hmove, -, -, h⟩ | ⟨hst, k, n, h⟩ <;>
      rw [h]
    · exact .inl rfl
    · exact .inr (.inl ⟨fun _ => hst, .inl ⟨e, he, rfl⟩⟩)
    · exact .inr (.inl ⟨fun _ => by rw [hst]; nofun, .inr ⟨false, rfl⟩⟩)
    · exact .inr (.inr ⟨_, hst ▸ .join, rfl⟩)
    · exact .inr (.inr ⟨st, hmove, rfl⟩)
    · exact .inr (.inr ⟨.searchingPrimes, hst ▸ .backEdge, Status.started_of_busy _ hb⟩)
  · rcases Instr.run_cases_of_ne_keygen hi s with h | ⟨h, -⟩
    · exact .inl (by rw [h])
    · exact .inr (.inl ⟨fun hk => absurd hk hi, h⟩)

/-! ### What a step does to the control state -/

/-- The state with all but its control part as after reset: what the control invariant speaks of. -/
def State.controlPart (s : State) : State :=
  { State.reset with
    params := s.params, cmd := s.cmd, status := s.status, latch := s.latch, unit0 := s.unit0, unit1 := s.unit1, seq := s.seq }

theorem State.controlInv_controlPart (s : State) : s.controlPart.ControlInv ↔ s.ControlInv := Iff.rfl

theorem State.statusInv_controlPart (s : State) : s.controlPart.StatusInv ↔ s.StatusInv := Iff.rfl

section
variable {r s : State} (h : r.controlPart = s.controlPart)
include h

theorem State.ControlInv.of_controlPart (hs : s.ControlInv) : r.ControlInv := by
  rwa [← State.controlInv_controlPart, h, State.controlInv_controlPart]

theorem State.StatusInv.of_controlPart (hs : s.StatusInv) : r.StatusInv := by
  rwa [← State.statusInv_controlPart, h, State.statusInv_controlPart]

theorem State.status_of_controlPart : r.status = s.status := by
  have h' := congrArg State.status h
  exact h'

theorem State.cmd_of_controlPart : r.cmd = s.cmd := by
  have h' := congrArg State.cmd h
  exact h'

theorem State.unit_of_controlPart (u : UnitId) : r.unit u = s.unit u := by
  have h' := congrArg (State.unit · u) h
  cases u <;> exact h'

end

/-- The six ways a step can change the control state. -/
inductive ControlStep (s t : State) : Prop
  /-- Nothing of it moves. -/
  | same (h : t.controlPart = s.controlPart)
  /-- A reset, soft or hard (10_state.md R40). -/
  | reset (hst : t.status = .reset) (hq : t.Quiet)
  /-- A word written to CMD of an idle block that ends in an error at once (50_host_interface.md R106). -/
  | refused (e : ErrCode) (hidle : s.status.busy = false) (he : e ≠ .noError) (hst : t.status = .failed e) (hq : t.Quiet)
  /-- A command written to CMD of an idle block that starts (50_host_interface.md R106, R107). -/
  | started (w : Word) (i : Instr) (hidle : s.status.busy = false) (hi : decode w = .ok i)
    (hdomain : i.outside s.params (i.sources.latch (s.acceptWord w)) = false)
    (ht : t = i.start ((s.acceptWord w).latched i.sources))
  /-- The sequencer's step of the command in CMD (50_host_interface.md R108). -/
  | ran (i : Instr) (hbusy : s.status.busy = true) (hi : decode s.cmd = .ok i) (ht : t = i.run s)
  /-- A step of a unit's search (43_prime_generator.md R87). -/
  | searched (u : UnitId) (hrun : (s.unit u).searchRuns = true) (ht : t = s.searchStep u)

/-- What a host access does to the control state; `r` is the state with the bus answer moved. -/
theorem State.perform_control_cases {s t : State} {op : BusOp} (h : s.perform op = .next t) :
    ∃ r, r.controlPart = s.controlPart ∧ ControlStep r t := by
  rcases State.perform_cases h with ⟨rfl, rfl⟩ | ⟨a, rfl⟩ | ⟨a, i, j, -, -, -, -, rfl⟩ | ⟨-, rfl⟩ | ⟨w, hb, -, h⟩ |
    ⟨w, -, rfl⟩ | ⟨w, -, rfl⟩ | ⟨b, -, rfl⟩ | ⟨c, d, -, rfl⟩ | ⟨i, j, w, hb, hi, hj, rfl, rfl⟩
  · exact ⟨s, rfl, .reset rfl ⟨rfl, rfl, rfl, rfl⟩⟩
  · exact ⟨s, rfl, .same rfl⟩
  · exact ⟨s, rfl, .same rfl⟩
  · exact ⟨s, rfl, .same rfl⟩
  · refine ⟨s.answer .written, rfl, ?_⟩
    rcases h with ⟨e, -, rfl⟩ | ⟨i, hi, h⟩
    · exact .refused .illegalCmd hb nofun rfl ⟨rfl, rfl, rfl, rfl⟩
    · rcases exec_cases h with ⟨-, ⟨-, rfl⟩ | ⟨hdomain, rfl⟩⟩ | ⟨hb', -⟩
      · exact .refused .domain hb nofun rfl ⟨rfl, rfl, rfl, rfl⟩
      · exact .started w i hb hi hdomain rfl
      · exact absurd (hb.symm.trans hb') Bool.false_ne_true
  · unfold State.writeCtrl
    split
    · exact ⟨s, rfl, .reset rfl ⟨rfl, rfl, rfl, rfl⟩⟩
    · exact ⟨s, rfl, .same rfl⟩
  · exact ⟨s, rfl, .same rfl⟩
  · exact ⟨s, rfl, .same rfl⟩
  · exact ⟨s, rfl, .same rfl⟩
  · exact ⟨s, rfl, .same rfl⟩

/-- The sequencer has a step only while a command runs (10_state.md R28). -/
theorem State.StatusInv.busy_of_seqEnabled {s : State} (hs : s.StatusInv) (h : s.seqEnabled = true) :
    s.status.busy = true := by
  refine hs.1.mpr fun hidle => ?_
  simp [State.seqEnabled, hidle] at h

/-- Every way a step can change the control state; `r` is the state with the queues of the world outside moved on. -/
theorem step_control_cases {s t : State} (hs : s.StatusInv) (h : step s = .next t) :
    ∃ r, r.controlPart = s.controlPart ∧ ControlStep r t := by
  rcases step_next_cases h with rfl | ⟨ts, k, r, hr, h⟩
  · exact ⟨t, rfl, .same rfl⟩
  · have hrs : r.controlPart = s.controlPart := by rw [hr]; rfl
    rcases h with ⟨op, rest, -, h⟩ | ⟨i, he, hi, h⟩ | ⟨u, hu, rfl⟩ | rfl
    · obtain ⟨r', hr', hstep⟩ := State.perform_control_cases h
      exact ⟨r', hr'.trans hrs, hstep⟩
    · have hb : r.status.busy = true := State.status_of_controlPart hrs ▸ hs.busy_of_seqEnabled he
      rw [exec_of_busy i hb, Host.Outcome.next.injEq] at h
      exact ⟨r, hrs, .ran i hb (State.cmd_of_controlPart hrs ▸ hi) h.symm⟩
    · exact ⟨r, hrs, .searched u (State.unit_of_controlPart hrs u ▸ hu) rfl⟩
    · exact ⟨t, hrs, .same rfl⟩

/-! ### The invariants of STATUS -/

section
variable {s t : State}

theorem State.StatusInv.of_status (hs : s.StatusInv) (h : t.status = s.status) : t.StatusInv := by
  unfold State.StatusInv
  rwa [h]

theorem State.statusInv_of_reset (h : t.status = .reset) : t.StatusInv := by
  simp [State.StatusInv, h, Status.reset]

theorem State.statusInv_of_failed {e : ErrCode} (he : e ≠ .noError) (h : t.status = .failed e) : t.StatusInv := by
  simp [State.StatusInv, h, Status.failed, he]

theorem State.statusInv_of_committed {r : Bool} (h : t.status = .committed r) : t.StatusInv := by
  simp [State.StatusInv, h, Status.committed]

/-- A command accepted and started meets them: DONE and ERR are cleared, and STATE leaves IDLE (50_host_interface.md R106). -/
theorem State.statusInv_of_started {st : SeqState} (hst : st ≠ .idle) (h : t.status = s.status.accepted.started st) :
    t.StatusInv := by
  simp [State.StatusInv, h, Status.started, Status.accepted, hst]

/-- A busy block that only moves STATE, to another running state, keeps them. -/
theorem State.StatusInv.of_move {st : SeqState} (hs : s.StatusInv) (hb : s.status.busy = true) (hst : st ≠ .idle)
    (h : t.status = { s.status with state := st }) : t.StatusInv := by
  obtain ⟨-, herr, hdone⟩ := hs
  refine ⟨?_, ?_, ?_⟩ <;> rw [h]
  · exact ⟨fun _ => hst, fun _ => hb⟩
  · exact herr
  · exact hdone

end

theorem KeygenMove.ne_idle {a b : SeqState} (h : KeygenMove a b) : b ≠ .idle := by cases h <;> nofun

theorem ControlStep.statusInv {s t : State} (hs : s.StatusInv) (h : ControlStep s t) : t.StatusInv := by
  cases h with
  | same h => exact hs.of_controlPart h
  | reset hst => exact State.statusInv_of_reset hst
  | refused e _ he hst => exact State.statusInv_of_failed he hst
  | started w i _ _ _ ht =>
    refine State.statusInv_of_started (s := s) ?_ (ht ▸ Instr.status_start i _)
    split <;> nofun
  | ran i hb _ ht =>
    subst ht
    rcases Instr.run_status_cases i hb with h | ⟨-, ⟨e, he, h⟩ | ⟨r, h⟩⟩ | ⟨st, hmove, h⟩
    · exact hs.of_status h
    · exact State.statusInv_of_failed he h
    · exact State.statusInv_of_committed h
    · exact hs.of_move hb hmove.ne_idle h
  | searched u _ ht => exact hs.of_status (by simp [ht, State.searchStep_frame])

/-- Settles O56, way by way a step changes the control state. -/
theorem statusInvKept : Obligations.StatusInvKept := by
  intro s t hs h
  obtain ⟨r, hr, hstep⟩ := step_control_cases hs h
  exact hstep.statusInv (hs.of_controlPart hr)

/-! ### The control invariant, state by state -/

theorem State.execRuns_iff {s : State} :
    s.ExecRuns ↔ ∃ i, decode s.cmd = .ok i ∧
      (((∃ rd, i = .genPrime rd) ∧ s.unit0.Searching .u0 s.latch.bits ∧ 2 ≤ s.latch.bits ∧
          s.latch.bits ≤ s.params.maxBits) ∨
        ((∀ rd, i ≠ .genPrime rd) ∧ i ≠ .keygen ∧ s.unit0 = .empty)) := by
  unfold State.ExecRuns
  cases decode s.cmd with
  | error e => simp
  | ok i => cases i <;> simp

/-- The states of the KEYGEN FSM after the join, in which no unit searches (10_state.md R21, 44_keypair_fsm.md R94). -/
def SeqState.derives : SeqState → Bool
  | .computingModulus | .validatingExponent | .computingPrivateExponent | .done => true
  | .idle | .exec | .searchingPrimes => false

section
variable {s : State}

theorem State.controlInv_of_idle (h : s.status.state = .idle) : s.ControlInv ↔ s.StatusInv ∧ s.LatchFits ∧ s.Quiet := by
  rw [State.ControlInv, h]

theorem State.controlInv_of_exec (h : s.status.state = .exec) :
    s.ControlInv ↔ s.StatusInv ∧ s.LatchFits ∧ s.ExecRuns ∧ s.unit1 = .empty ∧ s.seq = .empty := by
  rw [State.ControlInv, h]

theorem State.controlInv_of_searching (h : s.status.state = .searchingPrimes) :
    s.ControlInv ↔ s.StatusInv ∧ s.LatchFits ∧ s.KeygenRuns ∧ s.unit0.Searching .u0 (s.latch.bits / 2) ∧
      s.unit1.Searching .u1 (s.latch.bits / 2) ∧
      s.seq.key.p = 0 ∧ s.seq.key.q = 0 ∧ s.seq.key.n = 0 ∧ s.seq.key.lam = 0 := by
  rw [State.ControlInv, h]

theorem State.controlInv_of_derives (h : s.status.state.derives = true) :
    s.ControlInv ↔ s.StatusInv ∧ s.LatchFits ∧ s.KeygenRuns ∧ s.unit0 = .empty ∧ s.unit1 = .empty := by
  unfold State.ControlInv
  cases hst : s.status.state <;> simp [SeqState.derives, hst] at h ⊢

/-- The control invariant of a block with nothing hidden left. -/
theorem State.ControlInv.of_quiet (hst : s.StatusInv) (hidle : s.status.state = .idle) (hq : s.Quiet) : s.ControlInv := by
  refine (State.controlInv_of_idle hidle).mpr ⟨hst, ?_, hq⟩
  simp [State.LatchFits, hq.1, Latch.empty]

/-- The command that runs in EXEC is not KEYGEN, and in every later state it is (10_state.md R21, 44_keypair_fsm.md R93). -/
theorem State.ControlInv.eq_keygen_iff (hs : s.ControlInv) (hidle : s.status.state ≠ .idle) {i : Instr}
    (hi : decode s.cmd = .ok i) : i = .keygen ↔ s.status.state ≠ .exec := by
  cases hst : s.status.state with
  | idle => exact absurd hst hidle
  | exec =>
    obtain ⟨-, -, hexec, -⟩ := (State.controlInv_of_exec hst).mp hs
    obtain ⟨j, hj, h⟩ := State.execRuns_iff.mp hexec
    obtain rfl := Except.ok.inj (hi.symm.trans hj)
    rcases h with ⟨⟨rd, rfl⟩, -⟩ | ⟨-, hne, -⟩
    · simp
    · simp [hne]
  | searchingPrimes =>
    obtain ⟨-, -, ⟨hk, -⟩, -⟩ := (State.controlInv_of_searching hst).mp hs
    simpa using Except.ok.inj (hi.symm.trans hk)
  | computingModulus | validatingExponent | computingPrivateExponent | done =>
    obtain ⟨-, -, ⟨hk, -⟩, -⟩ := (State.controlInv_of_derives (by rw [hst]; rfl)).mp hs
    simpa using Except.ok.inj (hi.symm.trans hk)

end

/-! ### The transitions of STATUS.STATE -/

/-- Settles O54: outside COMPUTING_MODULUS a running command may end, and otherwise it stays or takes an edge of the FSM. -/
theorem stateTransitions : Obligations.StateTransitions := by
  intro s t hs h
  obtain ⟨r, hr, hstep⟩ := step_control_cases hs.1 h
  have hst := State.status_of_controlPart hr
  replace hs := hs.of_controlPart hr
  rw [← hst]
  clear h hst hr s
  have hbusy := hs.1.1
  cases hstep with
  | same h => exact .inl (congrArg Status.state (State.status_of_controlPart h))
  | reset hst => exact .inr (.inl ⟨by rw [hst]; rfl, fun _ => hst⟩)
  | refused e hidle _ hst =>
    exact .inr (.inl ⟨by rw [hst]; rfl, fun hcm => absurd (hbusy.mpr (by rw [hcm]; nofun)) (by simp [hidle])⟩)
  | started w i hidle _ _ ht =>
    have hfrom : r.status.state = .idle := by
      by_contra hne
      exact absurd (hbusy.mpr hne) (by simp [hidle])
    have hto : t.status.state = if i = .keygen then .searchingPrimes else .exec := by rw [ht, Instr.status_start]; rfl
    split at hto
    · exact .inr (.inr (.inr (.inl ⟨hfrom, hto⟩)))
    · exact .inr (.inr (.inl ⟨hfrom, hto⟩))
  | ran i hb hi ht =>
    subst ht
    rcases Instr.run_status_cases i hb with h | ⟨hcm, h⟩ | ⟨st, hmove, h⟩
    · exact .inl (by rw [h])
    · have hend : (i.run r).status.state = .idle := by
        rcases h with ⟨e, -, h⟩ | ⟨v, h⟩ <;> rw [h] <;> rfl
      refine .inr (.inl ⟨hend, fun hst => ?_⟩)
      have hk := (hs.eq_keygen_iff (hbusy.mp hb) hi).mpr (by rw [hst]; nofun)
      exact absurd hst (hcm hk)
    · have hto : (i.run r).status.state = st := by rw [h]
      rw [hto]
      generalize r.status.state = a at hmove
      cases hmove <;> simp
  | searched u _ ht => exact .inl (by simp [ht, State.searchStep_frame])

/-! ### Every step keeps the control invariant -/

/-- A fresh search has found nothing yet (43_prime_generator.md R87). -/
theorem UnitState.searching_searching (u : UnitId) (b : Nat) : (UnitState.searching b).Searching u b :=
  ⟨rfl, rfl, nofun, nofun⟩

theorem UnitState.empty_searchRuns : UnitState.empty.searchRuns = false := rfl

/-- A command accepted by an idle block starts in the invariant: its domain check bounds the bit size, and no other hidden state
is left (50_host_interface.md R106, R109). -/
theorem Instr.start_controlInv {s : State} {w : Word} {i : Instr} (hs : s.ControlInv)
    (hidle : s.status.busy = false) (hi : decode w = .ok i)
    (hdomain : i.outside s.params (i.sources.latch (s.acceptWord w)) = false)
    (hstatus : (i.start ((s.acceptWord w).latched i.sources)).StatusInv) :
    (i.start ((s.acceptWord w).latched i.sources)).ControlInv := by
  have hfits : (i.start ((s.acceptWord w).latched i.sources)).LatchFits := by
    simpa [State.LatchFits] using Sources.latch_fits (s.acceptWord w) i.sources
  have hidle' : s.status.state = .idle := by
    by_contra hne
    exact absurd (hs.1.1.mpr hne) (by simp [hidle])
  obtain ⟨-, -, -, hu0, hu1, hseq⟩ := (State.controlInv_of_idle hidle').mp hs
  cases i with
  | keygen =>
    simp only [Instr.outside, keygenOutside, decide_eq_false_iff_not, not_or, not_not, not_lt] at hdomain
    obtain ⟨heven, hmin, hmax⟩ := hdomain
    refine (State.controlInv_of_searching rfl).mpr ⟨hstatus, hfits, ⟨hi, heven, hmin, hmax⟩,
      UnitState.searching_searching _ _, UnitState.searching_searching _ _, ?_⟩
    simp [Instr.start, hseq, Sequencer.empty, KeyRegs.empty]
  | genPrime rd =>
    simp only [Instr.outside, genPrimeOutside, decide_eq_false_iff_not, not_or, not_lt] at hdomain
    refine (State.controlInv_of_exec rfl).mpr ⟨hstatus, hfits, State.execRuns_iff.mpr ⟨_, hi, .inl ⟨⟨rd, rfl⟩, ?_, hdomain⟩⟩,
      hu1, hseq⟩
    exact UnitState.searching_searching _ _
  | modexp | gcd | lcm | modinv | mrRound | mrRoundW | isPrime | rsaep =>
    exact (State.controlInv_of_exec rfl).mpr ⟨hstatus, hfits, State.execRuns_iff.mpr ⟨_, hi, .inr ⟨nofun, nofun, hu0⟩⟩,
      hu1, hseq⟩

/-- A move of the KEYGEN FSM that neither starts from a search nor goes back to one stays among the states in which no unit
searches. -/
theorem KeygenMove.derives {a b : SeqState} (h : KeygenMove a b) (ha : a ≠ .searchingPrimes) (hb : b ≠ .searchingPrimes) :
    a.derives = true ∧ b.derives = true := by
  cases h with
  | join => exact absurd rfl ha
  | backEdge => exact absurd rfl hb
  | modulus | exponent | privateExponent => exact ⟨rfl, rfl⟩

/-- A step of a running KEYGEN keeps the control invariant (44_keypair_fsm.md R94 to R101). -/
theorem runKeygen_controlInv {s : State} (hs : s.ControlInv) (hstatus : (runKeygen s).StatusInv) :
    (runKeygen s).ControlInv := by
  rcases runKeygen_cases s with h | ⟨-, e, -, h⟩ | ⟨-, h⟩ | ⟨hst, k, h⟩ | ⟨st, k, n, hmove, hfrom, hto, h⟩ | ⟨hst, k, n, h⟩ <;>
    rw [h] at hstatus ⊢
  case inl => exact hs
  case inr.inl => exact .of_quiet hstatus rfl ⟨rfl, rfl, rfl, rfl⟩
  case inr.inr.inl => exact .of_quiet hstatus rfl ⟨rfl, rfl, rfl, rfl⟩
  case inr.inr.inr.inl =>
    obtain ⟨-, hfits, hkey, -⟩ := (State.controlInv_of_searching hst).mp hs
    exact (State.controlInv_of_derives rfl).mpr ⟨hstatus, hfits, hkey, rfl, rfl⟩
  case inr.inr.inr.inr.inl =>
    obtain ⟨hd, hd'⟩ := hmove.derives hfrom hto
    obtain ⟨-, hfits, hkey, hu0, hu1⟩ := (State.controlInv_of_derives hd).mp hs
    exact (State.controlInv_of_derives hd').mpr ⟨hstatus, hfits, hkey, hu0, hu1⟩
  case inr.inr.inr.inr.inr =>
    obtain ⟨-, hfits, hkey, -⟩ := (State.controlInv_of_derives (hst ▸ rfl)).mp hs
    exact (State.controlInv_of_searching rfl).mpr ⟨hstatus, hfits, hkey, UnitState.searching_searching _ _,
      UnitState.searching_searching _ _, rfl, rfl, rfl, rfl⟩

/-- The sequencer's step of any running command keeps the control invariant. -/
theorem Instr.run_controlInv (i : Instr) {s : State} (hs : s.ControlInv) (hstatus : (i.run s).StatusInv) :
    (i.run s).ControlInv := by
  by_cases hi : i = .keygen
  · subst hi
    exact runKeygen_controlInv hs hstatus
  · rcases Instr.run_cases_of_ne_keygen hi s with h | ⟨hend, hq⟩
    · exact h.symm ▸ hs
    · refine .of_quiet hstatus ?_ hq
      rcases hend with ⟨e, -, h⟩ | ⟨r, h⟩ <;> rw [h] <;> rfl

/-- A search step keeps what a unit holds while it searches: a value it reports is a candidate of its interval that passed its
test (43_prime_generator.md R87, R88). -/
theorem State.searchStep_searching {s : State} {u : UnitId} {b : Nat} (hb : 2 ≤ b) (hx : (s.unit u).Searching u b)
    (hrun : (s.unit u).searchRuns = true) : ((s.searchStep u).unit u).Searching u b := by
  obtain ⟨hactive, rfl, -, -⟩ := hx
  have ⟨hfound, hfail⟩ : (s.unit u).gen.found = false ∧ (s.unit u).gen.fail = false := by
    simp only [UnitState.searchRuns, Bool.and_eq_true, Bool.not_eq_true'] at hrun
    exact ⟨hrun.1.2, hrun.2⟩
  rcases State.searchStep_cases u s with ⟨-, -, h⟩ | ⟨-, w, t, hw, ht, h⟩
  · rw [h, State.setUnit_unit, if_pos rfl]
    exact ⟨hactive, rfl, by simp [hfound], by simp [hfound]⟩
  · rw [h, State.setUnit_unit, if_pos rfl]
    refine ⟨hactive, rfl, by simp [UnitState.tried, hfail], fun hverdict => ?_⟩
    replace hverdict : t.verdict = true := hverdict
    obtain ⟨hlo, hhi⟩ := Source.draw_mem u (s.rng u) (candLo_le_candHi hb)
    have hres : ((s.unit u).tried w.1 t).gen.res = w.1 := by simp [UnitState.tried, hverdict]
    rw [hres]
    exact ⟨hw ▸ hlo, hw ▸ hhi, w.2, ht ▸ hverdict⟩

/-- A search step leaves the other unit as it was (00_scope.md R9). -/
theorem State.searchStep_unit_of_ne {u v : UnitId} (s : State) (h : v ≠ u) : (s.searchStep u).unit v = s.unit v :=
  congrArg UnitPart.own (State.searchStep_part_of_ne s h)

/-- A step of a unit's search keeps the control invariant: a unit runs only in EXEC, as UNIT0 for GEN_PRIME, and in
SEARCHING_PRIMES (10_state.md R37). -/
theorem State.searchStep_controlInv {s : State} {u : UnitId} (hs : s.ControlInv) (hrun : (s.unit u).searchRuns = true) :
    (s.searchStep u).ControlInv := by
  obtain ⟨hp, -, -, -, hcmd, hstatus, -, -, -, hlatch, hseq⟩ := State.searchStep_frame u s
  have hinv : (s.searchStep u).StatusInv := hs.1.of_status hstatus
  have hfits : (s.searchStep u).LatchFits := by simpa only [State.LatchFits, hp, hlatch] using hs.2.1
  have hkey : (s.searchStep u).KeygenRuns ↔ s.KeygenRuns := by simp only [State.KeygenRuns, hp, hcmd, hlatch]
  have hother := fun v (hv : v ≠ u) => State.searchStep_unit_of_ne s hv
  have stopped : s.unit0 = .empty → s.unit1 = .empty → False := fun h0 h1 => by
    cases u <;> simp [h0, h1, UnitState.empty_searchRuns] at hrun
  cases hst : s.status.state with
  | idle =>
    obtain ⟨-, -, -, h0, h1, -⟩ := (State.controlInv_of_idle hst).mp hs
    exact (stopped h0 h1).elim
  | computingModulus | validatingExponent | computingPrivateExponent | done =>
    obtain ⟨-, -, -, h0, h1⟩ := (State.controlInv_of_derives (hst ▸ rfl)).mp hs
    exact (stopped h0 h1).elim
  | exec =>
    obtain ⟨-, -, hexec, h1, hempty⟩ := (State.controlInv_of_exec hst).mp hs
    obtain ⟨i, hi, ⟨hgen, hsearch, hmin, hmax⟩ | ⟨-, -, h0⟩⟩ := State.execRuns_iff.mp hexec
    · cases u with
      | u1 => simp [h1, UnitState.empty_searchRuns] at hrun
      | u0 =>
        refine (State.controlInv_of_exec (hstatus ▸ hst)).mpr ⟨hinv, hfits, State.execRuns_iff.mpr ⟨i, hcmd ▸ hi, .inl ?_⟩,
          (hother .u1 nofun).trans h1, hseq.trans hempty⟩
        rw [hlatch, hp]
        exact ⟨hgen, State.searchStep_searching (u := .u0) hmin hsearch hrun, hmin, hmax⟩
    · exact (stopped h0 h1).elim
  | searchingPrimes =>
    obtain ⟨-, -, hk, h0, h1, hzero⟩ := (State.controlInv_of_searching hst).mp hs
    have hb : 2 ≤ s.latch.bits / 2 := by
      have : 16 ≤ s.latch.bits := hk.2.2.1
      omega
    refine (State.controlInv_of_searching (hstatus ▸ hst)).mpr ⟨hinv, hfits, hkey.mpr hk, ?_⟩
    rw [hlatch, hseq]
    cases u with
    | u0 =>
      have h1' : (s.searchStep .u0).unit1 = s.unit1 := hother .u1 nofun
      exact ⟨State.searchStep_searching (u := .u0) hb h0 hrun, h1' ▸ h1, hzero⟩
    | u1 =>
      have h0' : (s.searchStep .u1).unit0 = s.unit0 := hother .u0 nofun
      exact ⟨h0' ▸ h0, State.searchStep_searching (u := .u1) hb h1 hrun, hzero⟩

/-- Settles O58, way by way a step changes the control state. -/
theorem controlInvKept : Obligations.ControlInvKept := by
  intro s t hs h
  obtain ⟨r, hr, hstep⟩ := step_control_cases hs.1 h
  replace hs := hs.of_controlPart hr
  have hstatus : t.StatusInv := hstep.statusInv hs.1
  cases hstep with
  | same h => exact hs.of_controlPart h
  | reset hst hq => exact .of_quiet hstatus (hst ▸ rfl) hq
  | refused e _ _ hst hq => exact .of_quiet hstatus (hst ▸ rfl) hq
  | started w i hidle hi hdomain ht => exact ht ▸ Instr.start_controlInv hs hidle hi hdomain (ht ▸ hstatus)
  | ran i _ _ ht => exact ht ▸ Instr.run_controlInv i hs (ht ▸ hstatus)
  | searched u hrun ht => exact ht ▸ State.searchStep_controlInv hs hrun

/-- Settles O55. -/
theorem resetMeetsInvariants : Obligations.ResetMeetsInvariants := by
  intro p
  have hstatus : ({ State.reset with params := p } : State).StatusInv := State.statusInv_of_reset rfl
  refine ⟨hstatus, ⟨State.reset_mem_wf, nofun, fun i _ j _ h => ?_⟩, .of_quiet hstatus rfl ⟨rfl, rfl, rfl, rfl⟩, trivial, nofun⟩
  exact absurd (BitVec.getLsbD_zero.symm.trans h) Bool.false_ne_true

end Sys2Proof.Machine
end

section
/-! PROOFS. Unwritten reads and the frame of a command (10_state.md R18, R19; 50_host_interface.md R107, R109, R110): where
UnwrittenRead is recorded, and what each command leaves unchanged. -/

namespace Sys2Proof.Machine

/-! ### Where UnwrittenRead is recorded -/

/-- exec records UnwrittenRead at an issue that meets an unwritten source word, and nowhere else (50_host_interface.md R107). -/
theorem exec_unwrittenRead {i : Instr} {s t : State} (h : exec i s = .next t) :
    t.unwrittenRead = (s.unwrittenRead || (!s.status.busy && i.sources.meetsUnwritten s)) := by
  rcases exec_cases h with ⟨hb, ⟨-, rfl⟩ | ⟨-, rfl⟩⟩ | ⟨hb, rfl⟩
  · simp [hb]
  · simp [hb]
  · simp [hb]

/-- Settles O49. -/
theorem unwrittenSourceIsRecorded : Obligations.UnwrittenSourceIsRecorded := by
  intro i s
  obtain ⟨t, ht⟩ := exec_next i s
  refine ⟨t, ht, ?_⟩
  rw [exec_unwrittenRead ht, Bool.or_eq_true, Bool.and_eq_true, Bool.not_eq_true', Instr.meetsUnwritten_iff]

/-- The host access reads an unwritten big-register word, or issues a command that names a source register with one
(50_host_interface.md R107, R110). -/
def State.MeetsUnwritten (s : State) (op : BusOp) : Prop :=
  (∃ i j, i < 16 ∧ j < s.params.maxWords ∧ op = s.readAt (wordOffset i j) ∧ s.written i j = false) ∨
  (∃ w i, s.status.busy = false ∧ op = s.writeAt 0x008 w ∧ decode w = .ok i ∧
    ∃ k ∈ i.sourceRegs, ∃ j < s.params.maxWords, s.written k j = false)

/-- A host access records UnwrittenRead only where it meets an unwritten word. -/
theorem State.perform_unwrittenRead_cases {s t : State} {op : BusOp} (h : s.perform op = .next t) :
    t.unwrittenRead = s.unwrittenRead ∨ (t.unwrittenRead = true ∧ s.MeetsUnwritten op) := by
  rcases State.perform_cases h with ⟨rfl, rfl⟩ | ⟨a, rfl⟩ | ⟨a, i, j, hi, hj, hop, hw, rfl⟩ | ⟨-, rfl⟩ | ⟨w, hb, hop, h⟩ |
    ⟨w, -, rfl⟩ | ⟨w, -, rfl⟩ | ⟨b, -, rfl⟩ | ⟨c, d, -, rfl⟩ | ⟨i, j, w, hb, hi, hj, rfl, rfl⟩
  · exact .inl rfl
  · exact .inl rfl
  · exact .inr ⟨by simp, .inl ⟨i, j, hi, hj, hop, hw⟩⟩
  · exact .inl rfl
  · rcases h with ⟨e, -, rfl⟩ | ⟨i, hi, h⟩
    · exact .inl rfl
    · have hexec := exec_unwrittenRead h
      cases hmet : i.sources.meetsUnwritten ((s.answer .written).acceptWord w) with
      | false => exact .inl (by simpa [hmet] using hexec)
      | true =>
        refine .inr ⟨by simpa [hmet, Status.accepted, hb] using hexec, .inr ⟨w, i, hb, hop, hi, ?_⟩⟩
        exact Instr.meetsUnwritten_iff.mp hmet
  · unfold State.writeCtrl
    split <;> exact .inl rfl
  · exact .inl rfl
  · exact .inl rfl
  · exact .inl rfl
  · exact .inl rfl

/-- A host access that meets an unwritten word records it. -/
theorem State.unwrittenRead_of_perform {s t : State} {op : BusOp} (h : s.perform op = .next t) (hmet : s.MeetsUnwritten op) :
    t.unwrittenRead = true := by
  rcases hmet with ⟨i, j, hi, hj, rfl, hw⟩ | ⟨w, i, hb, rfl, hi, hmet⟩
  · have := s.params.maxWords_le
    have hoff : wordOffset i j < 0x3000 ∧ wordOffset i j % 4 = 0 := by simp only [wordOffset]; omega
    rw [State.perform_readAt hoff.1 hoff.2, (State.unwrittenPlace_eq_true hoff.1 hoff.2).mpr ⟨i, j, hi, hj, rfl, hw⟩,
      Host.Outcome.next.injEq] at h
    simp [← h]
  · rw [State.perform_writeAt_cmd hb hi] at h
    have hsrc : i.sources.meetsUnwritten ((s.answer .written).acceptWord w) = true := Instr.meetsUnwritten_iff.mpr hmet
    simpa [hsrc, Status.accepted, hb] using exec_unwrittenRead h

/-! ### Every step answers a next state -/

theorem State.writePlace_next (s : State) (w : Word) (p : Place) : ∃ t, s.writePlace w p = .next t := by
  cases p with
  | cmd =>
    simp only [State.writePlace, State.writeCmd]
    split
    · exact ⟨_, rfl⟩
    · split
      · exact ⟨_, rfl⟩
      · exact exec_next _ _
  | _ => exact ⟨_, rfl⟩

theorem State.perform_next (s : State) (op : BusOp) : ∃ t, s.perform op = .next t := by
  cases op with
  | hardReset => exact ⟨_, rfl⟩
  | read addr width =>
    simp only [State.perform]
    split_ifs <;> exact ⟨_, rfl⟩
  | write addr width w =>
    simp only [State.perform]
    split_ifs
    · exact State.writePlace_next _ _ _
    · exact ⟨_, rfl⟩
    · exact ⟨_, rfl⟩

theorem State.agentStep_next (s : State) (a : Agent) : ∃ t, s.agentStep a = .next t := by
  cases a with
  | host =>
    simp only [State.agentStep, State.hostStep]
    split
    · exact ⟨_, rfl⟩
    · exact State.perform_next _ _
  | seq =>
    simp only [State.agentStep, State.seqStep]
    split
    · exact exec_next _ _
    · exact ⟨_, rfl⟩
  | unit u => exact ⟨_, rfl⟩

theorem step_next (s : State) : ∃ t, step s = .next t := by
  rcases step_cases s with ⟨-, h⟩ | ⟨a, ts, k, -, h⟩
  · exact ⟨s, h⟩
  · rw [h]
    exact State.agentStep_next _ _

/-! ### The step that records it -/

/-- A step records UnwrittenRead only where the host's next access meets an unwritten word. -/
theorem step_unwrittenRead_cases {s t : State} (hs : s.StatusInv) (h : step s = .next t) :
    t.unwrittenRead = s.unwrittenRead ∨
    (t.unwrittenRead = true ∧ ∃ op, s.bus.head? = some op ∧ s.MeetsUnwritten op) := by
  rcases step_next_cases h with rfl | ⟨ts, k, r, hr, ⟨op, rest, hbus, h⟩ | ⟨i, he, -, h⟩ | ⟨u, -, rfl⟩ | rfl⟩
  · exact .inl rfl
  · subst hr
    refine (State.perform_unwrittenRead_cases h).imp_right fun ⟨ht, hmet⟩ => ⟨ht, op, ?_, hmet⟩
    rw [hbus]; rfl
  · have hb : r.status.busy = true := by rw [hr]; exact hs.busy_of_seqEnabled he
    rw [exec_of_busy i hb, Host.Outcome.next.injEq] at h
    rw [← h, Instr.unwrittenRead_run, hr]
    exact .inl rfl
  · obtain ⟨-, -, -, hu, -⟩ := State.searchStep_frame u r
    rw [hu, hr]
    exact .inl rfl
  · rw [hr]
    exact .inl rfl

/-- Where the host has the turn, its access that meets an unwritten word is recorded by the step. -/
theorem unwrittenRead_of_step {s t : State} {op : BusOp} (hop : s.bus.head? = some op) (hmet : s.MeetsUnwritten op)
    (hturn : s.turns.head? = some .host) (h : step s = .next t) : t.unwrittenRead = true := by
  obtain ⟨rest, hbus⟩ := List.head?_eq_some_iff.mp hop
  obtain ⟨ts, hts⟩ := List.head?_eq_some_iff.mp hturn
  rw [step_of_turn hts (by simp [State.agentEnabled, hbus])] at h
  simp only [State.agentStep, State.hostStep, hbus] at h
  exact State.unwrittenRead_of_perform h hmet

/-- Settles O50. -/
theorem stepRecordsOnlyUnwrittenReads : Obligations.StepRecordsOnlyUnwrittenReads := by
  intro s hs meetsUnwritten
  have hmeets : meetsUnwritten ↔ ∃ op, s.bus.head? = some op ∧ s.MeetsUnwritten op := by
    constructor
    · rintro (⟨i, j, hi, hj, hop, hw⟩ | ⟨w, i, hb, hop, hrest⟩)
      · exact ⟨_, hop, .inl ⟨i, j, hi, hj, rfl, hw⟩⟩
      · exact ⟨_, hop, .inr ⟨w, i, hb, rfl, hrest⟩⟩
    · rintro ⟨op, hop, ⟨i, j, hi, hj, rfl, hw⟩ | ⟨w, i, hb, rfl, hrest⟩⟩
      · exact .inl ⟨i, j, hi, hj, hop, hw⟩
      · exact .inr ⟨w, i, hb, hop, hrest⟩
  rw [hmeets]
  obtain ⟨t, ht⟩ := step_next s
  have hcases := step_unwrittenRead_cases hs ht
  refine ⟨t, ht, fun hset => ?kept, fun hclear hset => ?only, fun hmet hturn => ?recorded, fun hclear hmet => ⟨ht, ?clean⟩⟩
  case kept => exact hcases.elim (·.trans hset) (·.1)
  case only => exact hcases.elim (fun h => absurd (h.symm.trans hset) (by simp [hclear])) (·.2)
  case recorded =>
    obtain ⟨op, hop, hmet⟩ := hmet
    have hset := unwrittenRead_of_step hop hmet hturn ht
    refine ⟨hset, fun u ⟨hu, hclear⟩ => ?_⟩
    obtain rfl := Host.Outcome.next.inj (ht.symm.trans hu)
    exact absurd (hset.symm.trans hclear) (by decide)
  case clean => exact hcases.elim (·.trans hclear) (fun h => absurd h.2 hmet)

/-! ### The frame of a command -/

theorem Instr.cntRestart_run {i : Instr} (hi : i ≠ .keygen) (s : State) : (i.run s).cntRestart = s.cntRestart := by
  rcases Instr.run_cases i s with h | ⟨e, -, h⟩ | ⟨rd, v, r, src, -, -, h⟩ | ⟨hk, -⟩ | ⟨hk, -⟩ | ⟨hk, -⟩ | ⟨hk, -⟩
  · rw [h]
  · rw [h]; rfl
  · rw [h]; rfl
  all_goals exact absurd hk hi

/-- Only MR_ROUND and IS_PRIME draw in their own step (42_primality.md R81, R85). -/
theorem Instr.rng0_run {i : Instr} (hround : ∀ rd rs1 rs2, i ≠ .mrRound rd rs1 rs2) (hprime : ∀ rd rs1, i ≠ .isPrime rd rs1)
    (s : State) : (i.run s).rng0 = s.rng0 := by
  cases i with
  | mrRound rd rs1 rs2 => exact absurd rfl (hround rd rs1 rs2)
  | isPrime rd rs1 => exact absurd rfl (hprime rd rs1)
  | lcm =>
    simp only [Instr.run, runLcm]
    split <;> simp
  | modinv =>
    simp only [Instr.run, runModinv]
    split <;> simp
  | genPrime =>
    simp only [Instr.run, runGenPrime]
    split_ifs <;> simp
  | keygen =>
    rw [Instr.run_keygen]
    rcases runKeygen_cases s with h | ⟨-, e, -, h⟩ | ⟨-, h⟩ | ⟨-, k, h⟩ | ⟨st, k, n, -, -, -, h⟩ | ⟨-, k, n, h⟩ <;> rw [h] <;>
      simp [keygenRestart]
  | modexp | gcd | mrRoundW | rsaep => simp [Instr.run, runModexp, runGcd, runMrRoundW, runRsaep]

/-- Settles O51: at an issue STATUS, the counters, the latch and the units move; at a running step only a commit writes. -/
theorem commandFrame : Obligations.CommandFrame := by
  intro i s t h
  rcases exec_cases h with ⟨hb, ⟨-, rfl⟩ | ⟨-, rfl⟩⟩ | ⟨hb, rfl⟩
  · simp [hb]
  · simp [hb]
  · have hbig := Instr.run_big_cases i s
    refine ⟨fun a ha => ?bytes, fun hidle => ?idle, fun hkeep => ?kept, fun _ hend herr k hk l hl => ?committed, ?frame⟩
    case bytes =>
      rcases hbig with ⟨hm, -⟩ | ⟨ws, r, hws, hm, -⟩
      · rw [hm]
      · rw [hm]
        exact Memory.read_writeBrs_of_outside _ _ ws fun w hw => ha w.1 (hws ▸ List.mem_map_of_mem hw)
    case idle => exact absurd (hb.symm.trans hidle) (by decide)
    case kept =>
      rcases hbig with ⟨-, hw, -⟩ | ⟨ws, r, -, -, -, hst⟩
      · exact hw
      · simp [hb, hst, Status.committed] at hkeep
    case committed =>
      rcases hbig with ⟨-, -, hstill⟩ | ⟨ws, r, hws, -, hw, -⟩
      · exact absurd (hstill hb) (by simp [hend, herr])
      · rw [State.written_eq, hw, WrittenBits.markBrs_get _ _ ws hk hl, Bool.or_eq_true, decide_eq_true_iff, hws]
        rfl
    case frame =>
      have hrestart : i ≠ .keygen → (i.run s).cntRestart = s.cntRestart := fun hi => Instr.cntRestart_run hi s
      have hrng : (∀ rd rs1 rs2, i ≠ .mrRound rd rs1 rs2) → (∀ rd rs1, i ≠ .isPrime rd rs1) → (i.run s).rng0 = s.rng0 :=
        fun hround hprime => Instr.rng0_run hround hprime s
      simpa [hb] using And.intro hrestart hrng

end Sys2Proof.Machine
end

section
/-! PROOFS. The registers as a host sees them (10_state.md R23 to R34), and how a command word comes to run (R20, R27). -/

namespace Sys2Proof.Machine

/-! ### Places and register words -/

theorem placeAt_hole {off : Nat} (hlo : 0x02C ≤ off) (hhi : off < 0x1000) : placeAt off = .hole := by
  unfold placeAt
  repeat rw [if_neg (by omega)]
  exact if_pos hhi

theorem placeAt_br {off : Nat} (h : 0x1000 ≤ off) :
    placeAt off = .br ((off - 0x1000) / 0x200) ((off - 0x1000) % 0x200 / 4) := by
  unfold placeAt
  repeat rw [if_neg (by omega)]

theorem State.readPlace_ctrl (s : State) : s.readPlace .ctrl = if s.irqEn then 1 else 0 := by
  cases h : s.irqEn <;> simp [State.readPlace, h]

theorem State.readPlace_bitsize (s : State) : s.readPlace .bitsize = s.bitsize.setWidth 32 := BitVec.ofNat_toNat _ _

theorem State.readPlace_attemptCap (s : State) : s.readPlace .attemptCap = s.restartCap ++ s.candCap := by
  apply BitVec.eq_of_toNat_eq
  have hc := s.candCap.isLt
  have hr := s.restartCap.isLt
  rw [BitVec.toNat_append, ← Nat.shiftLeft_add_eq_or_of_lt hc, Nat.shiftLeft_eq]
  simp only [State.readPlace, State.attemptCapWord, BitVec.toNat_ofNat]
  omega

/-- A 32-bit read of a register returns its word and changes nothing else (20_memory.md R48). -/
theorem State.perform_readAt_of_placeAt {s : State} {off : Nat} {p : Place} {v : Word} (hoff : off < 0x1000)
    (h4 : off % 4 = 0) (hp : placeAt off = p) (hv : s.readPlace p = v) :
    s.perform (s.readAt off) = .next { s with resp := .data v } := by
  rw [State.perform_readAt_csr hoff h4, hp, hv]
  rfl

/-- A 32-bit write follows the rule of the register it reaches. -/
theorem State.perform_writeAt_of_placeAt {s : State} {off : Nat} {w : Word} {p : Place} (hoff : off < 0x3000)
    (h4 : off % 4 = 0) (hp : placeAt off = p) : s.perform (s.writeAt off w) = (s.answer .written).writePlace w p := by
  rw [State.perform_writeAt hoff h4, hp]

/-- A write to ID, PARAM, STATUS, a counter or an offset with no register is ignored, busy or not (10_state.md R23, R34). -/
theorem State.perform_writeAt_ignored (s : State) (w : Word) {off : Nat} (h4 : off % 4 = 0)
    (hoff : off = 0x000 ∨ off = 0x004 ∨ off = 0x00C ∨ (0x020 ≤ off ∧ off < 0x1000)) :
    s.perform (s.writeAt off w) = .next { s with resp := .written } := by
  rcases hoff with rfl | rfl | rfl | ⟨hlo, hhi⟩
  · exact State.perform_writeAt_of_placeAt (p := .id) (by decide) h4 rfl
  · exact State.perform_writeAt_of_placeAt (p := .param) (by decide) h4 rfl
  · exact State.perform_writeAt_of_placeAt (p := .status) (by decide) h4 rfl
  · obtain rfl | rfl | rfl | hlo : off = 0x020 ∨ off = 0x024 ∨ off = 0x028 ∨ 0x02C ≤ off := by omega
    · exact State.perform_writeAt_of_placeAt (p := .cntPg0) (by decide) h4 rfl
    · exact State.perform_writeAt_of_placeAt (p := .cntPg1) (by decide) h4 rfl
    · exact State.perform_writeAt_of_placeAt (p := .cntRestart) (by decide) h4 rfl
    · exact State.perform_writeAt_of_placeAt (by omega) h4 (placeAt_hole hlo hhi)

/-- A write to IRQ clears the pending bits where it has a 1, busy or not (10_state.md R31, R34). -/
theorem State.perform_writeAt_irq (s : State) (w : Word) :
    s.perform (s.writeAt 0x018 w) =
      .next { s with
        resp := .written
        irq := { doneP := s.irq.doneP && !w.getLsbD 0, wbusyP := s.irq.wbusyP && !w.getLsbD 1 } } :=
  State.perform_writeAt_of_placeAt (p := .irq) (by decide) (by decide) rfl

/-- A write to CTRL, busy or not: the soft reset, or IRQ_EN alone (10_state.md R29, R34). -/
theorem State.perform_writeAt_ctrl (s : State) (w : Word) :
    s.perform (s.writeAt 0x010 w) = .next ((s.answer .written).writeCtrl w) :=
  State.perform_writeAt_of_placeAt (p := .ctrl) (by decide) (by decide) rfl

theorem State.perform_writeAt_ctrl_irqEn (s : State) {w : Word} (h : w.getLsbD 1 = false) :
    s.perform (s.writeAt 0x010 w) = .next { s with resp := .written, irqEn := w.getLsbD 0 } := by
  rw [State.perform_writeAt_ctrl, State.writeCtrl, if_neg (by rw [h]; decide)]
  rfl

theorem State.perform_writeAt_ctrl_softReset (s : State) {w : Word} (h : w.getLsbD 1 = true) :
    s.perform (s.writeAt 0x010 w) = .next { s.softReset with resp := .written } := by
  rw [State.perform_writeAt_ctrl, State.writeCtrl, if_pos h]
  rfl

/-- The places whose writes a busy block drops (10_state.md R34). -/
theorem State.writePlace_of_busy {s : State} {w : Word} {p : Place} (hb : s.status.busy = true)
    (hp : p = .cmd ∨ p = .bitsize ∨ p = .attemptCap ∨ ∃ i j, p = .br i j) : s.writePlace w p = .next s.dropWrite := by
  rcases hp with rfl | rfl | rfl | ⟨i, j, rfl⟩ <;> simp [State.writePlace, State.writeCmd, State.unlessBusy, hb]

/-! ### The registers of the window -/

/-- Settles O12, class by class of the offsets R34 lists. -/
theorem writesWhileBusy : Obligations.WritesWhileBusy := by
  intro s w off hb hoff h4
  refine ⟨fun hdrop => ?dropped, State.perform_writeAt_ignored s w h4, fun hctrl hbit => ?irqEn, fun hctrl hbit => ?reset,
    fun hirq => ?irq, _, _, State.perform_readAt hoff h4, rfl⟩
  case dropped =>
    refine (State.perform_writeAt hoff h4).trans (State.writePlace_of_busy (s := s.answer .written) hb ?_)
    rcases hdrop with rfl | rfl | rfl | hbr
    · exact .inl rfl
    · exact .inr (.inl rfl)
    · exact .inr (.inr (.inl rfl))
    · exact .inr (.inr (.inr ⟨_, _, placeAt_br hbr⟩))
  case irqEn => exact hctrl ▸ State.perform_writeAt_ctrl_irqEn s hbit
  case reset => exact hctrl ▸ State.perform_writeAt_ctrl_softReset s hbit
  case irq => exact hirq ▸ State.perform_writeAt_irq s w

/-- Settles O13. -/
theorem registerWritesWhileIdle : Obligations.RegisterWritesWhileIdle := by
  intro s w hb
  refine ⟨?bitsize, ?attemptCap, State.perform_writeAt_ctrl_irqEn s, State.perform_writeAt_irq s w,
    fun off hoff h4 => State.perform_writeAt_ignored s w h4 hoff,
    State.perform_readAt_of_placeAt (by decide) (by decide) rfl s.readPlace_bitsize,
    State.perform_readAt_of_placeAt (by decide) (by decide) rfl s.readPlace_attemptCap,
    State.perform_readAt_of_placeAt (by decide) (by decide) rfl s.readPlace_ctrl⟩
  case bitsize =>
    rw [State.perform_writeAt_of_placeAt (p := .bitsize) (by decide) (by decide) rfl, BitVec.ofNat_toNat]
    simp [State.writePlace, State.unlessBusy, hb, State.answer]
  case attemptCap =>
    have hhigh : BitVec.ofNat 16 (w.toNat / 2 ^ 16) = (w >>> 16).setWidth 16 := by
      rw [← BitVec.ofNat_toNat, BitVec.toNat_ushiftRight, Nat.shiftRight_eq_div_pow]
    rw [State.perform_writeAt_of_placeAt (p := .attemptCap) (by decide) (by decide) rfl, BitVec.ofNat_toNat, hhigh]
    simp [State.writePlace, State.unlessBusy, hb, State.answer]

/-! ### The fields of a register word -/

theorem getLsbD_of_field {w : Word} {k : Nat} {b : Bool} (h : field w k 1 = b.toNat) : w.getLsbD k = b := by
  rw [← BitVec.testBit_toNat, Nat.testBit_eq_decide_div_mod_eq]
  change w.toNat / 2 ^ k % 2 = b.toNat at h
  rw [h]
  cases b <;> rfl

theorem extractLsb'_of_field {w : Word} {lo len v : Nat} (h : field w lo len = v) :
    w.extractLsb' lo len = BitVec.ofNat len v := by
  apply BitVec.eq_of_toNat_eq
  rw [BitVec.extractLsb'_toNat, Nat.shiftRight_eq_div_pow, BitVec.toNat_ofNat, ← h, field, Nat.mod_mod]

theorem ErrCode.code_lt (e : ErrCode) : e.code < 16 := by cases e <;> decide

theorem SeqState.code_lt (st : SeqState) : st.code < 8 := by cases st <;> decide

/-- The fields of PARAM (10_state.md R26). -/
theorem paramWord_fields (p : Params) :
    field (paramWord p) 0 8 = p.maxWords ∧ field (paramWord p) 8 4 = 5 ∧ field (paramWord p) 12 4 = 0 ∧
    field (paramWord p) 16 16 = 16 := by
  have := p.maxWords_le
  simp only [field, paramWord, Config.kRounds, Config.minKeyBits, BitVec.toNat_ofNat]
  omega

/-- The fields of STATUS (10_state.md R28). -/
theorem Status.toWord_fields (t : Status) :
    field t.toWord 0 1 = t.busy.toNat ∧ field t.toWord 1 1 = t.done.toNat ∧ field t.toWord 2 1 = t.err.toNat ∧
    field t.toWord 3 1 = t.result.toNat ∧ field t.toWord 4 4 = 0 ∧ field t.toWord 8 4 = t.errCode.code ∧
    field t.toWord 12 4 = 0 ∧ field t.toWord 16 3 = t.state.code ∧ field t.toWord 19 13 = 0 := by
  have hb := t.busy.toNat_le
  have hd := t.done.toNat_le
  have he := t.err.toNat_le
  have hr := t.result.toNat_le
  have hc := t.errCode.code_lt
  have hs := t.state.code_lt
  simp only [field, Status.toWord, BitVec.toNat_ofNat]
  omega

/-- The fields of IRQ (10_state.md R31). -/
theorem IrqPending.toWord_fields (p : IrqPending) :
    field p.toWord 0 1 = p.doneP.toNat ∧ field p.toWord 1 1 = p.wbusyP.toNat ∧ field p.toWord 2 30 = 0 := by
  have hd := p.doneP.toNat_le
  have hw := p.wbusyP.toNat_le
  simp only [field, IrqPending.toWord, BitVec.toNat_ofNat]
  omega

/-- Settles O14, register by register; the fields of a word are those it was put together from. -/
theorem registerReads : Obligations.RegisterReads := by
  intro s
  have csr := @State.perform_readAt_of_placeAt s
  refine ⟨csr (by decide) (by decide) rfl rfl, ⟨_, csr (by decide) (by decide) rfl rfl, ?param⟩,
    csr (by decide) (by decide) rfl rfl, ⟨_, csr (by decide) (by decide) rfl rfl, ?status⟩,
    csr (by decide) (by decide) rfl s.readPlace_ctrl, csr (by decide) (by decide) rfl s.readPlace_bitsize,
    ⟨_, csr (by decide) (by decide) rfl rfl, ?irq⟩, csr (by decide) (by decide) rfl s.readPlace_attemptCap,
    csr (by decide) (by decide) rfl rfl, csr (by decide) (by decide) rfl rfl, csr (by decide) (by decide) rfl rfl,
    fun off hlo hhi h4 => csr hhi h4 (placeAt_hole hlo hhi) rfl⟩
  case param =>
    obtain ⟨h0, h8, h12, h16⟩ := paramWord_fields s.params
    exact ⟨extractLsb'_of_field h0, extractLsb'_of_field h8, extractLsb'_of_field h12, extractLsb'_of_field h16⟩
  case status =>
    obtain ⟨h0, h1, h2, h3, h4, h8, h12, h16, h19⟩ := s.status.toWord_fields
    refine ⟨getLsbD_of_field h0, getLsbD_of_field h1, getLsbD_of_field h2, getLsbD_of_field h3, extractLsb'_of_field h4,
      (extractLsb'_of_field h8).trans ?_, extractLsb'_of_field h12, (extractLsb'_of_field h16).trans ?_,
      extractLsb'_of_field h19⟩
    · cases s.status.errCode <;> rfl
    · cases s.status.state <;> rfl
  case irq =>
    obtain ⟨h0, h1, h2⟩ := s.irq.toWord_fields
    exact ⟨getLsbD_of_field h0, getLsbD_of_field h1, extractLsb'_of_field h2⟩

/-- Settles O45. -/
theorem illegalWordCompletes : Obligations.IllegalWordCompletes := by
  intro s w e hb he
  refine ⟨_, ?_, rfl⟩
  rw [State.perform_writeAt_of_placeAt (p := .cmd) (by decide) (by decide) rfl]
  simp [State.writePlace, State.writeCmd, hb, he]
  rfl

/-! ### How a command comes to run -/

/-- Settles O5: the host is the only agent that can step, and its write of the word is the issue. -/
theorem commandWordIsRun : Obligations.CommandWordIsRun := by
  intro s w rest i hbus hb hst hu0 hu1 hi
  have hhost : s.agentEnabled .host = true := by simp [State.agentEnabled, hbus]
  have hother : ∀ a, a ≠ .host → s.agentEnabled a = false := by
    intro a ha
    cases a with
    | host => exact absurd rfl ha
    | seq => simp [State.agentEnabled, State.seqEnabled, hst]
    | unit u => cases u <;> simp [State.agentEnabled, UnitState.searchRuns, hu0, hu1]
  rw [step_of_only_enabled hhost hother]
  simp only [State.agentStep, State.hostStep, hbus]
  exact State.perform_writeAt_cmd (s := { s with turns := s.turns.tail, bus := rest }) hb hi

/-- The sequencer has a step to take in each of the phases the rules list (10_state.md R21, 44_keypair_fsm.md R94,
50_host_interface.md R108). -/
theorem State.seqEnabled_of_phase {s : State} {i : Instr} (hi : decode s.cmd = .ok i)
    (h : s.status.state = .exec ∧ ((∀ rd, i ≠ .genPrime rd) ∨ s.unit0.gen.found = true ∨ s.unit0.gen.fail = true) ∨
      s.status.state = .searchingPrimes ∧ (s.unit0.gen.fail = true ∨ s.unit1.gen.fail = true ∨
        s.unit0.gen.found = true ∧ s.unit1.gen.found = true) ∨
      s.status.state = .computingModulus ∨ s.status.state = .validatingExponent ∨
      s.status.state = .computingPrivateExponent ∨ s.status.state = .done) : s.seqEnabled = true := by
  unfold State.seqEnabled
  rcases h with ⟨hst, h⟩ | ⟨hst, h⟩ | hst | hst | hst | hst <;> rw [hst]
  · rw [hi]
    cases i with
    | genPrime rd => simpa [State.genPrimeReady] using h
    | _ => rfl
  · simpa [State.joinReady, or_assoc] using h

theorem State.agentStep_seq {s : State} {i : Instr} (hi : decode s.cmd = .ok i) : s.agentStep .seq = exec i s := by
  simp [State.agentStep, State.seqStep, hi]

/-- Settles O6: the sequencer is enabled, so it steps where it has the turn, and where it is the only one. -/
theorem runningCommandGoesOn : Obligations.RunningCommandGoesOn := by
  intro s i hi hphase
  have hseq : s.agentEnabled .seq = true := State.seqEnabled_of_phase hi hphase
  refine ⟨fun ts hts => ?_, fun hbus hu0 hu1 => ?_⟩
  · exact (step_of_turn hts hseq).trans (State.agentStep_seq hi)
  · have hother : ∀ a, a ≠ .seq → s.agentEnabled a = false := by
      intro a ha
      cases a with
      | host => simp [State.agentEnabled, hbus]
      | seq => exact absurd rfl ha
      | unit u => cases u <;> assumption
    exact (step_of_only_enabled hseq hother).trans (State.agentStep_seq hi)

end Sys2Proof.Machine
end

section
/-! PROOFS. Host accesses to the window (20_memory.md R42 to R48): which of them are bus errors, what a read and an access
outside the window leave alone, one word of a big register, and a big register as the sum of its words. -/

namespace Sys2Proof.Machine

/-! ### The answer to an access -/

/-- A command takes no part in the bus: exec keeps the answer to the last access. -/
theorem exec_resp {i : Instr} {s t : State} (h : exec i s = .next t) : t.resp = s.resp := by
  rcases exec_cases h with ⟨-, ⟨-, rfl⟩ | ⟨-, rfl⟩⟩ | ⟨-, rfl⟩
  · simp
  · simp
  · simp

@[simp] theorem State.writeCtrl_resp (s : State) (w : Word) : (s.writeCtrl w).resp = s.resp := by
  unfold State.writeCtrl
  split <;> rfl

@[simp] theorem State.writeBrWord_resp (s : State) (i j : Nat) (w : Word) : (s.writeBrWord i j w).resp = s.resp := by
  unfold State.writeBrWord
  split <;> rfl

theorem State.unlessBusy_resp {s : State} {f : State → State} (hf : (f s).resp = s.resp) :
    (s.unlessBusy f).resp = s.resp := by
  unfold State.unlessBusy
  split
  · rfl
  · exact hf

/-- No write rule gives an answer of its own, not even the soft reset (70_reset_and_hazards.md R130). -/
theorem State.writePlace_resp {s t : State} {w : Word} {p : Place} (h : s.writePlace w p = .next t) : t.resp = s.resp := by
  cases p with
  | cmd =>
    simp only [State.writePlace, State.writeCmd] at h
    split at h
    · exact Host.Outcome.next.inj h ▸ State.dropWrite_resp s
    · split at h
      · exact Host.Outcome.next.inj h ▸ rfl
      · exact (exec_resp h).trans (State.acceptWord_resp s w)
  | ctrl => exact Host.Outcome.next.inj h ▸ State.writeCtrl_resp s w
  | br i j => exact Host.Outcome.next.inj h ▸ State.unlessBusy_resp (State.writeBrWord_resp s i j w)
  | bitsize | attemptCap => exact Host.Outcome.next.inj h ▸ State.unlessBusy_resp rfl
  | id | param | status | irq | cntPg0 | cntPg1 | cntRestart | hole => exact Host.Outcome.next.inj h ▸ rfl

/-- An access of the window that is not one aligned 32-bit word only answers a bus error (20_memory.md R46). -/
theorem State.perform_of_not_aligned (s : State) {off width : Nat} (w : Word) (hoff : off < 0x3000)
    (hbad : width ≠ 4 ∨ off % 4 ≠ 0) :
    s.perform (.read (s.params.base + off) width) = .next (s.answer (.busError 0)) ∧
    s.perform (.write (s.params.base + off) width w) = .next (s.answer (.busError 0)) := by
  have hnot : s.aligned (s.params.base + off) width = false := by
    rw [State.aligned_offset, decide_eq_false_iff_not]
    omega
  simp [State.perform, State.selects_offset hoff, hnot]

/-- Settles O8. -/
theorem badAccessIsBusError : Obligations.BadAccessIsBusError := by
  intro s off width w hoff
  refine ⟨State.perform_of_not_aligned s w hoff, fun ⟨_, h4⟩ t ht => ?_⟩
  rcases ht with hread | hwrite
  · rw [State.perform_readAt hoff h4, Host.Outcome.next.injEq] at hread
    simp [← hread]
  · rw [State.perform_writeAt hoff h4] at hwrite
    simp [State.writePlace_resp hwrite]

/-! ### Reads, and accesses outside the window -/

/-- An address outside the window is not the block's (20_memory.md R42). -/
theorem State.selects_of_outside {s : State} {addr : Nat} (h : addr < s.params.base ∨ s.params.base + 0x3000 ≤ addr) :
    s.selects addr = false :=
  decide_eq_false (by simp only [windowSize]; omega)

/-- A read moves the bus answer, and can record an unwritten read; nothing else (20_memory.md R48). -/
theorem State.perform_read (s : State) (addr width : Nat) :
    ∃ met r, s.perform (.read addr width) = .next ((s.noteUnwritten met).answer r) := by
  simp only [State.perform]
  split_ifs
  · exact ⟨_, _, rfl⟩
  · exact ⟨false, .busError 0, by rw [State.noteUnwritten_false]⟩
  · exact ⟨false, .notSelected, by rw [State.noteUnwritten_false]⟩

/-- Settles O9. -/
theorem readsChangeNothing : Obligations.ReadsChangeNothing := by
  intro s addr width w
  constructor
  · obtain ⟨met, r, h⟩ := State.perform_read s addr width
    exact ⟨_, h, rfl, fun hrec => by simp [hrec]⟩
  · intro hout
    simp [State.perform, State.selects_of_outside hout, State.answer]

/-! ### One word of a big register -/

theorem wordOffset_lt {i j : Nat} (hi : i < 16) (hj : j < 128) : wordOffset i j < 0x3000 := by
  simp only [wordOffset]
  omega

theorem wordOffset_mod_four (i j : Nat) : wordOffset i j % 4 = 0 := by
  simp only [wordOffset]
  omega

theorem State.readPlace_br_of_stored {s : State} {i j : Nat} (h : j < s.params.maxWords) :
    s.readPlace (.br i j) = s.mem.readWord (wordOffset i j) :=
  if_pos h

theorem State.readPlace_br_of_not_stored {s : State} {j : Nat} (i : Nat) (h : s.params.maxWords ≤ j) :
    s.readPlace (.br i j) = 0 :=
  if_neg (Nat.not_lt.mpr h)

/-- The host's read of word j of BRi (20_memory.md R43). -/
theorem State.perform_readAt_word (s : State) {i j : Nat} (hi : i < 16) (hj : j < 128) :
    s.perform (s.readAt (wordOffset i j)) =
      .next ((s.noteUnwritten (s.unwrittenPlace (.br i j))).answer (.data (s.readPlace (.br i j)))) := by
  rw [State.perform_readAt (wordOffset_lt hi hj) (wordOffset_mod_four i j), placeAt_wordOffset hi hj]

/-- The host's write of word j of BRi, the block being idle (20_memory.md R43). -/
theorem State.perform_writeAt_word_of_idle {s : State} {i j : Nat} (w : Word) (hi : i < 16) (hj : j < 128)
    (hidle : s.status.busy = false) :
    s.perform (s.writeAt (wordOffset i j) w) = .next ((s.answer .written).writeBrWord i j w) := by
  rw [State.perform_writeAt_of_placeAt (wordOffset_lt hi hj) (wordOffset_mod_four i j) (placeAt_wordOffset hi hj)]
  simp [State.writePlace, State.unlessBusy, hidle]

/-- The host's write of word j of BRi, the block being busy (10_state.md R34). -/
theorem State.perform_writeAt_word_of_busy {s : State} {i j : Nat} (w : Word) (hi : i < 16) (hj : j < 128)
    (hbusy : s.status.busy = true) : s.perform (s.writeAt (wordOffset i j) w) = .next (s.answer .written).dropWrite := by
  rw [State.perform_writeAt_of_placeAt (wordOffset_lt hi hj) (wordOffset_mod_four i j) (placeAt_wordOffset hi hj)]
  exact State.writePlace_of_busy hbusy (.inr (.inr (.inr ⟨i, j, rfl⟩)))

/-- A write to a word at or above MAX_WORDS is ignored (20_memory.md R43). -/
theorem State.writeBrWord_of_not_stored {s : State} {j : Nat} (i : Nat) (w : Word) (h : s.params.maxWords ≤ j) :
    s.writeBrWord i j w = s :=
  if_neg (Nat.not_lt.mpr h)

/-- A write to a stored word (20_memory.md R43, 10_state.md R19). -/
theorem State.writeBrWord_of_stored {s : State} {j : Nat} (i : Nat) (w : Word) (h : j < s.params.maxWords) :
    s.writeBrWord i j w =
      { s with mem := s.mem.writeWord (wordOffset i j) w, writtenBits := s.writtenBits.markWord i j } :=
  if_pos h

/-- A word's write changes only that word's four bytes. -/
theorem Memory.read_writeWord_of_outside {m : Memory} {off a : Nat} (w : Word) (h : a < off ∨ off + 4 ≤ a) :
    (m.writeWord off w).read a = m.read a :=
  Memory.read_splice_of_outside (by rwa [leBytes_length])

/-- Settles O10: a read and a write of a stored word, of a word at or above MAX_WORDS, and a write to a busy block. -/
theorem bigRegisterWordAccess : Obligations.BigRegisterWordAccess := by
  intro s i j w hi hj
  refine ⟨fun hstored => ⟨?read, fun hidle => ?write⟩, fun habove => ⟨?readAbove, fun hidle => ?writeAbove⟩,
    State.perform_writeAt_word_of_busy w hi hj⟩
  case read =>
    rw [State.perform_readAt_word s hi hj, State.readPlace_br_of_stored hstored]
    simp [State.unwrittenPlace, hstored, State.noteUnwritten, State.answer]
  case write =>
    have hbits (k l : Nat) (hk : k < 16) (hl : l < 128) := WrittenBits.markWord_get s.writtenBits (i := i) hk hj hl
    rw [State.perform_writeAt_word_of_idle w hi hj hidle, State.writeBrWord_of_stored i w (by simpa using hstored)]
    refine ⟨_, rfl, rfl, ?_, Memory.readWord_writeWord _ _ _, fun a ha => Memory.read_writeWord_of_outside w ha,
      fun k hk l hl hne => ?_⟩
    · simp [State.written_eq, hbits i j hi hj]
    · have hother : ¬(k = i ∧ l = j) := by omega
      simp [State.written_eq, hbits k l hk hl, hother]
  case readAbove =>
    rw [State.perform_readAt_word s hi hj, State.readPlace_br_of_not_stored i habove]
    simp [State.unwrittenPlace, Nat.not_lt.mpr habove, State.answer]
  case writeAbove =>
    rw [State.perform_writeAt_word_of_idle w hi hj hidle, State.writeBrWord_of_not_stored i w (by simpa using habove)]
    rfl

/-! ### A big register as the sum of its words -/

theorem leNat_append (as bs : List Byte) : leNat (as ++ bs) = leNat as + 256 ^ as.length * leNat bs := by
  induction as with
  | nil => simp [leNat]
  | cons a as ih =>
    rw [List.cons_append, leNat, leNat, ih, List.length_cons, Nat.pow_succ]
    ring

theorem Memory.readBytes_add (m : Memory) (k n lo : Nat) :
    m.readBytes (k + n) lo = m.readBytes k lo ++ m.readBytes n (lo + k) := by
  induction k generalizing lo with
  | zero => simp [Memory.readBytes]
  | succ k ih =>
    rw [Nat.add_right_comm, Memory.readBytes, Memory.readBytes, ih, List.cons_append, Nat.add_assoc lo, Nat.add_comm 1 k]

/-- A word is its four bytes, little-endian (20_memory.md R45). -/
theorem Memory.readWord_toNat (m : Memory) (off : Nat) : (m.readWord off).toNat = leNat (m.readBytes 4 off) := by
  have h := leNat_lt (m.readBytes 4 off)
  rw [Memory.readBytes_length] at h
  exact Nat.mod_eq_of_lt h

/-- The bytes of `n` words from an offset up are the little-endian sum of the words. -/
theorem Memory.leNat_readBytes_words (m : Memory) (lo n : Nat) :
    leNat (m.readBytes (4 * n) lo) =
      ((List.range n).map fun j => (m.readWord (lo + 4 * j)).toNat * 2 ^ (32 * j)).sum := by
  induction n with
  | zero => rfl
  | succ n ih =>
    have hpow : 256 ^ (4 * n) = 2 ^ (32 * n) := by rw [show 256 = 2 ^ 8 from rfl, ← Nat.pow_mul]; congr 1; omega
    rw [Nat.mul_succ, Memory.readBytes_add, leNat_append, Memory.readBytes_length, ih, List.sum_range_succ,
      Memory.readWord_toNat m (lo + 4 * n), hpow, Nat.mul_comm (2 ^ _)]

/-- Settles O11. -/
theorem bigRegisterIsSumOfWords : Obligations.BigRegisterIsSumOfWords := fun s i =>
  Memory.leNat_readBytes_words s.mem (brOffset i) s.params.maxWords

end Sys2Proof.Machine
end

section
/-! PROOFS. The statements of 30_encoding.md: a command is what its opcode makes of its indexes, and a row of the opcode
table tests the OPC byte of a word and the bits its format holds at 0. -/

namespace Sys2Proof

/-! ### A command, its opcode and its indexes -/

@[simp] theorem Opcode.opcode_instr (o : Opcode) (rd rs1 rs2 rs3 : Nat) : (o.instr rd rs1 rs2 rs3).opcode = o := by
  cases o <;> rfl

/-- A command is what its opcode makes of its indexes. -/
theorem Instr.instr_opcode_indexes (i : Instr) :
    i.opcode.instr (i.indexes.getD 0 0) (i.indexes.getD 1 0) (i.indexes.getD 2 0) (i.indexes.getD 3 0) = i := by
  cases i <;> rfl

/-- A command has no index for a field its format does not use (30_encoding.md R57). -/
theorem Instr.indexes_getD_of_unused (i : Instr) :
    (i.opcode.format.usesRs3 = false → i.indexes.getD 3 0 = 0) ∧
    (i.opcode.format.usesRs2 = false → i.indexes.getD 2 0 = 0) ∧
    (i.opcode.format.usesRs1 = false → i.indexes.getD 1 0 = 0) ∧
    (i.opcode.format.usesRd = false → i.indexes.getD 0 0 = 0) := by
  cases i with
  | modexp | mrRoundW | rsaep => exact ⟨nofun, nofun, nofun, nofun⟩
  | gcd | lcm | modinv | mrRound => exact ⟨fun _ => rfl, nofun, nofun, nofun⟩
  | isPrime => exact ⟨fun _ => rfl, fun _ => rfl, nofun, nofun⟩
  | genPrime => exact ⟨fun _ => rfl, fun _ => rfl, fun _ => rfl, nofun⟩
  | keygen => exact ⟨fun _ => rfl, fun _ => rfl, fun _ => rfl, fun _ => rfl⟩

/-- Four fields whose unused ones are 0 are the indexes of the command they make. -/
theorem Opcode.indexes_instr_getD (o : Opcode) {rd rs1 rs2 rs3 : Nat} (h3 : o.format.usesRs3 = false → rs3 = 0)
    (h2 : o.format.usesRs2 = false → rs2 = 0) (h1 : o.format.usesRs1 = false → rs1 = 0)
    (hd : o.format.usesRd = false → rd = 0) :
    (o.instr rd rs1 rs2 rs3).indexes.getD 0 0 = rd ∧ (o.instr rd rs1 rs2 rs3).indexes.getD 1 0 = rs1 ∧
    (o.instr rd rs1 rs2 rs3).indexes.getD 2 0 = rs2 ∧ (o.instr rd rs1 rs2 rs3).indexes.getD 3 0 = rs3 := by
  cases o with
  | modexp | mrRoundW | rsaep => exact ⟨rfl, rfl, rfl, rfl⟩
  | gcd | lcm | modinv | mrRound => exact ⟨rfl, rfl, rfl, (h3 rfl).symm⟩
  | isPrime => exact ⟨rfl, rfl, (h2 rfl).symm, (h3 rfl).symm⟩
  | genPrime => exact ⟨rfl, (h1 rfl).symm, (h2 rfl).symm, (h3 rfl).symm⟩
  | keygen => exact ⟨(hd rfl).symm, (h1 rfl).symm, (h2 rfl).symm, (h3 rfl).symm⟩

/-- Settles O2: the fields of the encoded word are the command's opcode and indexes, which make the command. -/
theorem decodeOfEncode : Obligations.DecodeOfEncode := by
  intro i hwf
  obtain ⟨hopc, hrd, hrs1, hrs2, hrs3, hrsv⟩ := Laws.EncodeFields.of_assemble i hwf
  obtain ⟨hun3, hun2, hun1, hund⟩ := i.indexes_getD_of_unused
  rw [decode_of_fields hopc hrsv (hrs3 ▸ hun3) (hrs2 ▸ hun2) (hrs1 ▸ hun1) (hrd ▸ hund), hrd, hrs1, hrs2, hrs3,
    i.instr_opcode_indexes]

/-- Settles O3: the fields the decoder has checked are those the encoder puts into the command's word. -/
theorem encodeOfDecode : Obligations.EncodeOfDecode := by
  intro w i h
  refine ⟨wellFormed_of_decode h, ?_⟩
  obtain ⟨o, hopc, hrsv, hun3, hun2, hun1, hund, rfl⟩ := fields_of_decode h
  obtain ⟨hrd, hrs1, hrs2, hrs3⟩ := o.indexes_instr_getD hun3 hun2 hun1 hund
  rw [encode_eq_assemble, o.opcode_instr, hrd, hrs1, hrs2, hrs3]
  exact (eq_assemble_of_fields hopc rfl rfl rfl rfl hrsv).symm

/-! ### The opcode table (spec/opcode_table.json) -/

/-- RSV and the fields a format does not use are the bits of a word from this one up (30_encoding.md R56, R57). -/
def Format.zeroFrom : Format → Nat
  | .f4 => 24
  | .f3 => 20
  | .f2 => 16
  | .f1 => 12
  | .f0 => 8

/-- The mask of the table's rows of a format: the OPC byte and the bits the format holds at 0. -/
def Format.mask (f : Format) : Word := BitVec.ofNat 32 (2 ^ 32 - 2 ^ f.zeroFrom + (2 ^ 8 - 1))

/-- The table's row of an opcode: mask and match. -/
def Opcode.tableRow (o : Opcode) : Word × Word := (o.format.mask, BitVec.ofNat 32 o.code)

/-- The rows of spec/opcode_table.json, in the table's order. -/
theorem Opcode.map_tableRow_all : Opcode.all.map Opcode.tableRow =
    [(0xFF0000FF, 0x01), (0xFFF000FF, 0x10), (0xFFF000FF, 0x11), (0xFFF000FF, 0x12), (0xFFF000FF, 0x20),
      (0xFF0000FF, 0x21), (0xFFFF00FF, 0x22), (0xFFFFF0FF, 0x30), (0xFFFFFFFF, 0x40), (0xFF0000FF, 0x50)] := rfl

theorem Opcode.mem_all (o : Opcode) : o ∈ Opcode.all := by cases o <;> decide

/-- The decoder's tests of RSV and the unused fields say together that the word is 0 from `zeroFrom` up. -/
theorem div_zeroFrom_eq_zero_iff (w : Word) (f : Format) :
    w.toNat / 2 ^ f.zeroFrom = 0 ↔
      field w 24 8 = 0 ∧ (f.usesRs3 = false → field w 20 4 = 0) ∧ (f.usesRs2 = false → field w 16 4 = 0) ∧
      (f.usesRs1 = false → field w 12 4 = 0) ∧ (f.usesRd = false → field w 8 4 = 0) := by
  have hw : w.toNat < 2 ^ 32 := w.isLt
  cases f <;>
    simp only [Format.zeroFrom, Format.usesRs3, Format.usesRs2, Format.usesRs1, Format.usesRd, field, reduceCtorEq,
      false_implies, true_implies, and_true] <;>
    omega

/-- A word is legal when its OPC is assigned and it is 0 from its format's `zeroFrom` up (30_encoding.md R60 to R62). -/
theorem exists_decode_iff (w : Word) :
    (∃ i, decode w = .ok i) ↔ ∃ o : Opcode, field w 0 8 = o.code ∧ w.toNat / 2 ^ o.format.zeroFrom = 0 := by
  simp only [div_zeroFrom_eq_zero_iff]
  constructor
  · rintro ⟨i, h⟩
    obtain ⟨o, hopc, hrsv, hun3, hun2, hun1, hund, -⟩ := fields_of_decode h
    exact ⟨o, hopc, hrsv, hun3, hun2, hun1, hund⟩
  · rintro ⟨o, hopc, hrsv, hun3, hun2, hun1, hund⟩
    exact ⟨_, decode_of_fields hopc hrsv hun3 hun2 hun1 hund⟩

/-- Of a word, the mask keeps all bits from `zeroFrom` up, and below them the OPC byte alone. -/
theorem toNat_and_mask (w : Word) (f : Format) :
    (w &&& f.mask).toNat / 2 ^ f.zeroFrom = w.toNat / 2 ^ f.zeroFrom ∧
    (w &&& f.mask).toNat % 2 ^ f.zeroFrom = field w 0 8 := by
  have hz : 8 ≤ f.zeroFrom ∧ f.zeroFrom ≤ 32 := by cases f <;> decide
  have hhigh : f.mask.toNat / 2 ^ f.zeroFrom = 2 ^ (32 - f.zeroFrom) - 1 := by cases f <;> rfl
  have hlow : f.mask.toNat % 2 ^ f.zeroFrom = 2 ^ 8 - 1 := by cases f <;> rfl
  have hfits : w.toNat / 2 ^ f.zeroFrom < 2 ^ (32 - f.zeroFrom) := by
    rw [Nat.div_lt_iff_lt_mul (by positivity), ← Nat.pow_add, Nat.sub_add_cancel hz.2]
    exact w.isLt
  rw [BitVec.toNat_and, Nat.and_div_two_pow, Nat.and_mod_two_pow, hhigh, hlow, Nat.and_two_pow_sub_one_eq_mod,
    Nat.and_two_pow_sub_one_eq_mod, field, Nat.pow_zero, Nat.div_one]
  exact ⟨Nat.mod_eq_of_lt hfits, Nat.mod_mod_of_dvd _ (Nat.pow_dvd_pow 2 hz.1)⟩

/-- A word matches an opcode's row when its OPC is the opcode's code and it is 0 from the format's `zeroFrom` up. -/
theorem and_tableRow_iff (w : Word) (o : Opcode) :
    w &&& o.tableRow.1 = o.tableRow.2 ↔ field w 0 8 = o.code ∧ w.toNat / 2 ^ o.format.zeroFrom = 0 := by
  obtain ⟨hhigh, hlow⟩ := toNat_and_mask w o.format
  have hcode : o.tableRow.2.toNat = o.code := by cases o <;> rfl
  have hlt : o.code < 2 ^ o.format.zeroFrom := by cases o <;> decide
  rw [← hhigh, ← hlow, ← BitVec.toNat_inj, hcode, Opcode.tableRow]
  constructor
  · intro h
    rw [h]
    exact ⟨Nat.mod_eq_of_lt hlt, Nat.div_eq_of_lt hlt⟩
  · rintro ⟨hmod, hdiv⟩
    rwa [Nat.mod_eq_of_lt (Nat.lt_of_div_eq_zero (by positivity) hdiv)] at hmod

/-- Settles O4: the decoder and the rows of the table test the same bits of a word. -/
theorem legalWordsMatchTable : Obligations.LegalWordsMatchTable := by
  intro w
  rw [exists_decode_iff, ← Opcode.map_tableRow_all]
  simp only [List.mem_map, Opcode.mem_all, true_and, exists_exists_eq_and, and_tableRow_iff]

/-! ### Sample words (95_test_vectors.md 2.1) -/

/-- Settles O1: each word decodes by evaluation. -/
theorem sampleWordsDecode : Obligations.SampleWordsDecode :=
  ⟨rfl, rfl, rfl, rfl, rfl, rfl, rfl, rfl, rfl, rfl⟩

end Sys2Proof
end

section
/-! PROOFS. The modular exponentiation engine (40_modexp_engine.md R66, R67): what its register r holds after each bit, the two
commands that commit its result, and the domain errors of every command's issue (50_host_interface.md R106). -/

namespace Sys2Proof.Machine

/-! ### The engine computes a power -/

/-- Between two passes of the engine's loop r is the base to the power of the exponent's bits from bit k up, modulo the modulus
(40_modexp_engine.md R66). -/
def Engine.HoldsTopBits (g : Engine) (k : Nat) : Prop := g.r = g.base ^ (g.exponent / 2 ^ k) % g.modulus

/-- The bits of e from bit i up are those from bit i + 1 up, and bit i. -/
theorem div_two_pow_eq_testBit (e i : Nat) :
    e / 2 ^ i = e / 2 ^ (i + 1) + e / 2 ^ (i + 1) + (if e.testBit i then 1 else 0) := by
  have hbit : (if e.testBit i then 1 else 0) = e / 2 ^ i % 2 := by
    rw [Nat.testBit_eq_decide_div_mod_eq]
    split <;> simp_all
  rw [hbit, Nat.pow_succ, ← Nat.div_div_eq_div_mul]
  omega

/-- Loaded for e, no bit of e has been looked at, and r is 1 mod m. -/
theorem Engine.holdsTopBits_start (b e m : Nat) : (Engine.start b e m).HoldsTopBits (bitLen e) := by
  have hnone : e / 2 ^ bitLen e = 0 := Nat.div_eq_of_lt (lt_two_pow_bitLen e)
  simp [Engine.HoldsTopBits, Engine.start, hnone]

/-- One pass takes bit i in: the squaring doubles the power, and the multiply adds the bit (40_modexp_engine.md R66). -/
theorem Engine.holdsTopBits_tick {g : Engine} {i : Nat} (h : g.HoldsTopBits (i + 1)) : (g.tick i).HoldsTopBits i := by
  have hr : g.r = g.base ^ (g.exponent / 2 ^ (i + 1)) % g.modulus := h
  have hsplit := div_two_pow_eq_testBit g.exponent i
  simp only [Engine.HoldsTopBits, Engine.tick]
  rw [hsplit, hr]
  split
  case isTrue => simp only [Nat.pow_add, Nat.pow_one, Nat.mul_mod, Nat.mod_mod]
  case isFalse => simp only [Nat.pow_add, Nat.pow_zero, Nat.mul_one, Nat.mul_mod, Nat.mod_mod]

/-- The loop from bit k - 1 down to bit 0 leaves the whole power in r, and never writes its operands. -/
theorem Engine.run_r {g : Engine} {k : Nat} (h : g.HoldsTopBits k) : (g.run k).r = g.base ^ g.exponent % g.modulus := by
  induction k generalizing g with
  | zero => simpa [Engine.HoldsTopBits, Engine.run] using h
  | succ i ih => exact ih (Engine.holdsTopBits_tick h)

/-- R67 for every modulus; modulo 0, which no command's domain allows, both sides are b^e. -/
theorem modExp_eq_pow_mod (b e m : Nat) : modExp b e m = b ^ e % m :=
  calc modExp b e m
      = (b % m) ^ e % m := Engine.run_r (Engine.holdsTopBits_start b e m)
    _ = b ^ e % m := (Nat.pow_mod b e m).symm

/-- Settles O20. -/
theorem engineComputesPower : Obligations.EngineComputesPower := fun b e m _ => modExp_eq_pow_mod b e m

/-! ### MODEXP and RSAEP -/

/-- The value in BRrd after the engine's execute-and-commit step: the power fits W bits where the modulus is one
(50_host_interface.md R108, R109). -/
theorem readBr_runModexp (rd : Nat) {s : State} (hpos : 0 < s.latch.op3) (hfits : s.latch.op3 < 2 ^ s.params.maxBits) :
    (runModexp rd s).readBr rd = s.latch.op1 ^ s.latch.op2 % s.latch.op3 := by
  rw [runModexp, modExp_eq_pow_mod, State.finish_eq_commit]
  exact State.readBr_commit s false ((Nat.mod_lt _ hpos).trans hfits)

/-- A command that is issued in its domain, with a modulus that is not 0, and whose step is the engine's, commits the power:
what MODEXP and RSAEP share (40_modexp_engine.md R69, 45_rsa_primitive.md R104). -/
theorem exec_commits_power {i : Instr} {s : State} {rd rs1 rs2 rs3 : Nat} (hb : s.status.busy = false)
    (hsources : i.sources = .f4 rs1 rs2 rs3) (hstart : i.start = State.startExec) (hstep : i.run = runModexp rd)
    (hdomain : i.outside s.params (i.sources.latch s) = false) (hpos : 0 < s.readBr rs3) :
    ∃ t u, exec i s = .next t ∧ t.status = { s.status with busy := true, state := .exec } ∧
      exec i t = .next u ∧ u.readBr rd = s.readBr rs1 ^ s.readBr rs2 % s.readBr rs3 ∧
      u.status = { busy := false, done := true, err := false, result := false, errCode := .noError, state := .idle } ∧
      u.irq.doneP = true := by
  obtain ⟨hissue, hrun⟩ := exec_issue_run hb hstart hdomain
  rw [hstep, hsources] at hrun
  rw [hsources] at hissue
  exact ⟨_, _, hissue, rfl, hrun, readBr_runModexp rd hpos (s.readBr_lt rs3), rfl, rfl⟩

/-- Settles O26. -/
theorem modexpResult : Obligations.ModexpResult := by
  intro s rd rs1 rs2 rs3 b e m hb h1 h2 h3 hm
  subst h1 h2 h3
  exact exec_commits_power hb rfl rfl rfl (decide_eq_false hm) (Nat.pos_of_ne_zero hm)

/-- Settles O34: m < n is the domain, and leaves no modulus of 0. -/
theorem rsaepResult : Obligations.RsaepResult := by
  intro s rd rs1 rs2 rs3 m e n hb h1 h2 h3 hlt
  subst h1 h2 h3
  exact exec_commits_power hb rfl rfl rfl (decide_eq_false (Nat.not_le.mpr hlt)) (Nat.zero_lt_of_lt hlt)

/-! ### Domain errors -/

/-- An issue outside the command's domain is a DOMAIN error completion in that step (50_host_interface.md R106). -/
theorem exec_domain {i : Instr} {s : State} (hb : s.status.busy = false)
    (ho : i.outside s.params (i.sources.latch s) = true) :
    exec i s = .next ((s.latched i.sources).completeError .domain) :=
  (exec_of_idle i hb).trans (State.issue_domain ho)

/-- MR_ROUND_W's two checks as one condition on the operands (42_primality.md R82). -/
theorem mrRoundWOutside_iff {l : Latch} :
    mrRoundWOutside l = true ↔ l.op2 < 5 ∨ l.op3 < 2 ∨ l.op2 - 2 < l.op3 := by
  simp [mrRoundWOutside]

/-- Settles O46: each command's condition is its domain check on the operands the issue latches. -/
theorem domainErrorsAtIssue : Obligations.DomainErrorsAtIssue := by
  intro s hb refused
  have refuse : ∀ i : Instr, i.outside s.params (i.sources.latch s) = true → refused i :=
    fun _ ho => ⟨_, exec_domain hb ho, rfl⟩
  refine ⟨fun rd rs1 rs2 rs3 hm => ?modexp, fun rd rs1 rs2 ha hb0 => ⟨?gcd, ?lcm⟩, fun rd rs1 rs2 hm => ?modinv,
    fun rd rs1 rs2 hn => ?mrRound, fun rd rs1 rs2 rs3 h => ?mrRoundW, fun rd hbits => ?genPrime, fun hbits => ?keygen,
    fun rd rs1 rs2 rs3 hle => ?rsaep⟩
  case modexp => exact refuse _ (decide_eq_true hm)
  case gcd => exact refuse _ (decide_eq_true ⟨ha, hb0⟩)
  case lcm => exact refuse _ (decide_eq_true ⟨ha, hb0⟩)
  case modinv => exact refuse _ (decide_eq_true hm)
  case mrRound => exact refuse _ (decide_eq_true hn)
  case mrRoundW => exact refuse _ (mrRoundWOutside_iff.mpr h)
  case genPrime => exact refuse _ (decide_eq_true hbits)
  case keygen => exact refuse _ (decide_eq_true (hbits.imp_left fun hodd => by simp [Sources.latch_scalars, hodd]))
  case rsaep => exact refuse _ (decide_eq_true hle)

end Sys2Proof.Machine
end

section
/-! PROOFS. The number-theory unit (41_number_theory.md): what STEIN's loop and the Euclidean loop keep, the values STEIN, LCMF
and MODINVF return (R70 to R72), and the results of GCD, LCM and MODINV (R73 to R75). -/

namespace Sys2Proof.Machine

/-! ### STEIN and LCMF -/

/-- The greatest common divisor that is still to be found in the operands, with the factors of 2 taken out so far
(41_number_theory.md R70). -/
def NtScratch.steinValue (t : NtScratch) : Nat := Nat.gcd t.a t.b * 2 ^ t.k

/-- Halving an even number takes no factor it shares with an odd one. -/
theorem gcd_half_of_even_odd {a b : Nat} (ha : a % 2 = 0) (hb : b % 2 ≠ 0) : Nat.gcd (a / 2) b = Nat.gcd a b := by
  have hcop : Nat.Coprime 2 b := Nat.coprime_two_left.mpr (Nat.odd_iff.mpr (Nat.mod_two_ne_zero.mp hb))
  calc Nat.gcd (a / 2) b
      = Nat.gcd (2 * (a / 2)) b := (hcop.gcd_mul_left_cancel (a / 2)).symm
    _ = Nat.gcd a b := by rw [Nat.mul_div_cancel' (Nat.dvd_of_mod_eq_zero ha)]

/-- Of two odd numbers the larger may be replaced by half their difference. -/
theorem gcd_half_sub_of_odd {a b : Nat} (ha : a % 2 ≠ 0) (hb : b % 2 ≠ 0) (hle : b ≤ a) :
    Nat.gcd ((a - b) / 2) b = Nat.gcd a b := by
  have heven : (a - b) % 2 = 0 := by omega
  rw [gcd_half_of_even_odd heven hb, Nat.gcd_sub_self_left hle]

/-- Halving two even numbers halves what they share. -/
theorem gcd_half_of_even {a b : Nat} (ha : a % 2 = 0) (hb : b % 2 = 0) : Nat.gcd a b = 2 * Nat.gcd (a / 2) (b / 2) := by
  rw [← Nat.gcd_mul_left, Nat.mul_div_cancel' (Nat.dvd_of_mod_eq_zero ha), Nat.mul_div_cancel' (Nat.dvd_of_mod_eq_zero hb)]

theorem NtScratch.steinValue_steinStep (t : NtScratch) : t.steinStep.steinValue = t.steinValue := by
  unfold NtScratch.steinStep
  split_ifs with heven ha hb hlt <;> simp only [NtScratch.steinValue]
  · rw [gcd_half_of_even heven.1 heven.2, Nat.pow_succ']
    ring
  · rw [gcd_half_of_even_odd ha fun hb => heven ⟨ha, hb⟩]
  · rw [Nat.gcd_comm, gcd_half_of_even_odd hb ha, Nat.gcd_comm]
  · rw [gcd_half_sub_of_odd ha hb hlt.le]
  · rw [Nat.gcd_comm, gcd_half_sub_of_odd hb ha (Nat.le_of_not_lt hlt), Nat.gcd_comm]

theorem NtScratch.steinValue_steinLoop (fuel : Nat) (t : NtScratch) :
    (NtScratch.steinLoop fuel t).steinValue = t.steinValue := by
  induction fuel generalizing t with
  | zero => rfl
  | succ fuel ih =>
    rw [NtScratch.steinLoop]
    split
    · rfl
    · rw [ih, NtScratch.steinValue_steinStep]

/-- STEIN is the greatest common divisor, also where an operand is 0 (41_number_theory.md R70). -/
theorem stein_eq_gcd (a b : Nat) : stein a b = Nat.gcd a b := by
  unfold stein
  split_ifs with ha hb
  · rw [ha, Nat.gcd_zero_left]
  · rw [hb, Nat.gcd_zero_right]
  · have hends : (steinScratch a b).a = (steinScratch a b).b :=
      steinLoop_ends _ _ (Nat.pos_of_ne_zero ha) (Nat.pos_of_ne_zero hb) le_rfl
    calc (steinScratch a b).a * 2 ^ (steinScratch a b).k
        = (steinScratch a b).steinValue := by rw [NtScratch.steinValue, ← hends, Nat.gcd_self]
      _ = NtScratch.steinValue { NtScratch.empty with a := a, b := b } := NtScratch.steinValue_steinLoop _ _
      _ = Nat.gcd a b := Nat.mul_one _

/-- LCMF is the least common multiple (41_number_theory.md R71). -/
theorem lcmF_eq_lcm (a b : Nat) : lcmF a b = Nat.lcm a b := by
  rw [lcmF, stein_eq_gcd, Nat.lcm, Nat.mul_div_assoc a (Nat.gcd_dvd_right a b)]

/-- Settles O21. -/
theorem lcmfIsLcm : Obligations.LcmfIsLcm := by
  intro a b _
  refine ⟨rfl, ?divides, lcmF_eq_lcm a b, fun hzero => ?zero⟩
  case divides => exact stein_eq_gcd a b ▸ Nat.gcd_dvd_right a b
  case zero => rw [lcmF_eq_lcm, Nat.lcm_eq_zero_iff]; exact hzero

/-! ### MODINVF -/

/-- What the Euclidean loop on a and m keeps: the gcd of the two remainders, and each remainder as its s times a modulo m
(41_number_theory.md R72). -/
structure NtScratch.Bezout (a m : Nat) (t : NtScratch) : Prop where
  gcd_eq : Nat.gcd t.r0 t.r1 = Nat.gcd a m
  modEq_r0 : a * t.s0 ≡ t.r0 [ZMOD m]
  modEq_r1 : a * t.s1 ≡ t.r1 [ZMOD m]

theorem NtScratch.Bezout.euclidStep {a m : Nat} {t : NtScratch} (h : t.Bezout a m) : t.euclidStep.Bezout a m := by
  have hrem : t.r0 - t.r0 / t.r1 * t.r1 = t.r0 % t.r1 := by rw [Nat.mul_comm, Nat.mod_eq_sub_mul_div]
  have hcast : ((t.r0 % t.r1 : Nat) : Int) = t.r0 - (t.r0 / t.r1 : Nat) * t.r1 := by
    push_cast
    rw [Int.emod_def, mul_comm]
  refine ⟨?gcd, h.modEq_r1, ?rem⟩
  case gcd =>
    simp only [NtScratch.euclidStep, hrem]
    rw [Nat.gcd_comm, ← Nat.gcd_rec, Nat.gcd_comm, h.gcd_eq]
  case rem =>
    simp only [NtScratch.euclidStep, hrem, hcast]
    rw [mul_sub, mul_left_comm]
    exact h.modEq_r0.sub (h.modEq_r1.mul_left _)

theorem NtScratch.Bezout.euclidLoop {a m : Nat} {t : NtScratch} (h : t.Bezout a m) (fuel : Nat) :
    (NtScratch.euclidLoop fuel t).Bezout a m := by
  induction fuel generalizing t with
  | zero => exact h
  | succ fuel ih =>
    rw [NtScratch.euclidLoop]
    split
    · exact h
    · exact ih h.euclidStep

theorem euclidScratch_bezout (a m : Nat) : (euclidScratch a m).Bezout a m := by
  refine NtScratch.Bezout.euclidLoop ?_ _
  constructor <;> dsimp only
  case gcd_eq => rw [← Nat.gcd_rec, Nat.gcd_comm]
  case modEq_r0 => rw [mul_one, Int.natCast_mod]; exact (Int.mod_modEq a m).symm
  case modEq_r1 => rw [mul_zero, Int.ModEq, Int.emod_self, Int.zero_emod]

/-- The loop leaves the gcd in r0, and in s0 its coefficient of a (41_number_theory.md R72). -/
theorem euclidScratch_result {a m : Nat} (hm : 1 ≤ m) :
    (euclidScratch a m).r0 = Nat.gcd a m ∧ a * (euclidScratch a m).s0 ≡ Nat.gcd a m [ZMOD m] := by
  have h := euclidScratch_bezout a m
  have hr0 : (euclidScratch a m).r0 = Nat.gcd a m := by
    rw [← h.gcd_eq, euclidScratch_ends a m hm, Nat.gcd_zero_right]
  exact ⟨hr0, hr0 ▸ h.modEq_r0⟩

theorem modInvF_of_not_coprime {a m : Nat} (hm : 1 ≤ m) (h : Nat.gcd a m ≠ 1) :
    modInvF a m = .notCoprime (Nat.gcd a m) := by
  have hm1 : m ≠ 1 := by rintro rfl; exact h (Nat.gcd_one_right a)
  obtain ⟨hr0, -⟩ := euclidScratch_result (a := a) hm
  rw [modInvF, if_neg hm1, hr0, if_pos h]

/-- Where a is coprime to m, MODINVF is Ok with the inverse, or with 0 for m = 1 (41_number_theory.md R72). -/
theorem modInvF_of_coprime {a m : Nat} (hm : 1 ≤ m) (h : Nat.gcd a m = 1) :
    ∃ x, modInvF a m = .ok x ∧ x < m ∧ (2 ≤ m → a * x % m = 1) := by
  by_cases hm1 : m = 1
  · subst hm1
    exact ⟨0, rfl, Nat.one_pos, by omega⟩
  · obtain ⟨hr0, hs0⟩ := euclidScratch_result (a := a) hm
    obtain ⟨x, hx⟩ := Int.eq_ofNat_of_zero_le (Int.emod_nonneg (euclidScratch a m).s0 (by omega : (m : Int) ≠ 0))
    have hok : modInvF a m = .ok x := by rw [modInvF, if_neg hm1, hr0, if_neg (not_not.mpr h), hx, Int.toNat_natCast]
    have hlt : x < m := by
      have := Int.emod_lt_of_pos (euclidScratch a m).s0 (by omega : (0 : Int) < m)
      omega
    have hinv : a * x ≡ 1 [MOD m] := by
      rw [← Int.natCast_modEq_iff, Nat.cast_mul, ← hx]
      calc (a : Int) * ((euclidScratch a m).s0 % m)
          ≡ a * (euclidScratch a m).s0 [ZMOD m] := (Int.mod_modEq _ _).mul_left _
        _ ≡ (1 : Nat) [ZMOD m] := h ▸ hs0
    exact ⟨x, hok, hlt, fun h2 => Eq.trans hinv (Nat.mod_eq_of_lt h2)⟩

/-- Settles O22, by whether a is coprime to m. -/
theorem modInverseIsInverse : Obligations.ModInverseIsInverse := by
  intro a m hm
  by_cases h : Nat.gcd a m = 1
  · obtain ⟨x, hok, hlt, hinv⟩ := modInvF_of_coprime hm h
    simpa [hok, h, hlt] using hinv
  · simp [modInvF_of_not_coprime hm h, h]

/-! ### GCD, LCM and MODINV -/

/-- A command with two sources, issued in its domain, has latched them when it takes its execution step
(50_host_interface.md R106 to R108). -/
theorem exec_runs_on_latch {i : Instr} {s : State} {rs1 rs2 : Nat} (hb : s.status.busy = false)
    (hsources : i.sources = .f3 rs1 rs2) (hstart : i.start = State.startExec)
    (hdomain : i.outside s.params (i.sources.latch s) = false) :
    ∃ t, exec i s = .next t ∧ t.status = { s.status with busy := true, state := .exec } ∧ exec i t = .next (i.run t) ∧
      t.params = s.params ∧ t.mem = s.mem ∧ t.latch.op1 = s.readBr rs1 ∧ t.latch.op2 = s.readBr rs2 := by
  obtain ⟨hissue, hrun⟩ := exec_issue_run hb hstart hdomain
  rw [hsources] at hissue hrun
  exact ⟨_, hissue, rfl, hrun, rfl, rfl, rfl, rfl⟩

theorem gcd_lt_two_pow_maxBits (s : State) (i j : Nat) :
    Nat.gcd (s.readBr i) (s.readBr j) < 2 ^ s.params.maxBits := by
  by_cases hi : s.readBr i = 0
  · rw [hi, Nat.gcd_zero_left]
    exact s.readBr_lt j
  · exact (Nat.gcd_le_left _ (Nat.pos_of_ne_zero hi)).trans_lt (s.readBr_lt i)

theorem runGcd_eq_commit (rd : Nat) (s : State) :
    runGcd rd s =
      (s.setNt (steinScratch s.latch.op1 s.latch.op2)).commit [(rd, Nat.gcd s.latch.op1 s.latch.op2)] false := by
  rw [runGcd, stein_eq_gcd, State.finish_eq_commit]

/-- Settles O27. -/
theorem gcdResult : Obligations.GcdResult := by
  intro s rd rs1 rs2 a b hb h1 h2 hab
  subst h1 h2
  obtain ⟨t, hissue, hstatus, hrun, hparams, -, hop1, hop2⟩ :=
    exec_runs_on_latch (i := .gcd rd rs1 rs2) hb rfl rfl (decide_eq_false hab)
  have hfits := gcd_lt_two_pow_maxBits s rs1 rs2
  refine ⟨t, runGcd rd t, hissue, hstatus, hrun, ?_⟩
  rw [← hop1, ← hop2, ← hparams] at hfits
  rw [← hop1, ← hop2, runGcd_eq_commit]
  exact ⟨State.readBr_commit _ false hfits, rfl, rfl⟩

theorem runLcm_of_fits (rd : Nat) {s : State} (h : Nat.lcm s.latch.op1 s.latch.op2 < 2 ^ s.params.maxBits) :
    runLcm rd s =
      (s.setNt (steinScratch s.latch.op1 s.latch.op2)).commit [(rd, Nat.lcm s.latch.op1 s.latch.op2)] false := by
  rw [runLcm, lcmF_eq_lcm, if_neg (Nat.not_le.mpr h), State.finish_eq_commit]

theorem runLcm_of_overflow (rd : Nat) {s : State} (h : 2 ^ s.params.maxBits ≤ Nat.lcm s.latch.op1 s.latch.op2) :
    runLcm rd s = s.completeError .overflow := by
  rw [runLcm, lcmF_eq_lcm, if_pos h]

/-- Settles O28, by whether the least common multiple fits W bits. -/
theorem lcmResult : Obligations.LcmResult := by
  intro s rd rs1 rs2 a b hb h1 h2 hab
  subst h1 h2
  obtain ⟨t, hissue, hstatus, hrun, hparams, hmem, hop1, hop2⟩ :=
    exec_runs_on_latch (i := .lcm rd rs1 rs2) hb rfl rfl (decide_eq_false hab)
  refine ⟨t, runLcm rd t, hissue, hstatus, hrun, ?_⟩
  rw [← hop1, ← hop2, ← hparams, ← hmem]
  rcases Nat.lt_or_ge (Nat.lcm t.latch.op1 t.latch.op2) (2 ^ t.params.maxBits) with hfits | hover
  · rw [runLcm_of_fits rd hfits]
    exact ⟨rfl, fun _ => ⟨State.readBr_commit _ false hfits, rfl⟩, fun h => absurd hfits (Nat.not_lt.mpr h)⟩
  · rw [runLcm_of_overflow rd hover]
    exact ⟨rfl, fun h => absurd h (Nat.not_lt.mpr hover), fun _ => ⟨rfl, rfl⟩⟩

theorem runModinv_of_ok (rd : Nat) {s : State} {x : Nat} (h : modInvF s.latch.op1 s.latch.op2 = .ok x) :
    runModinv rd s = (s.setNt (euclidScratch s.latch.op1 s.latch.op2)).commit [(rd, x)] false := by
  simp only [runModinv, h, State.finish_eq_commit]

theorem runModinv_of_notCoprime (rd : Nat) {s : State} {g : Nat} (h : modInvF s.latch.op1 s.latch.op2 = .notCoprime g) :
    runModinv rd s = s.completeError .notCoprime := by
  simp only [runModinv, h]

/-- Settles O29, by whether a is coprime to m. -/
theorem modinvResult : Obligations.ModinvResult := by
  intro s rd rs1 rs2 a m hb h1 h2 hm
  subst h1 h2
  obtain ⟨t, hissue, hstatus, hrun, hparams, hmem, hop1, hop2⟩ :=
    exec_runs_on_latch (i := .modinv rd rs1 rs2) hb rfl rfl (decide_eq_false hm)
  have hpos := Nat.pos_of_ne_zero hm
  have hmfits := s.readBr_lt rs2
  refine ⟨t, runModinv rd t, hissue, hstatus, hrun, ?_⟩
  rw [← hop2] at hpos hmfits
  rw [← hparams] at hmfits
  rw [← hop1, ← hop2, ← hmem]
  by_cases hcop : Nat.gcd t.latch.op1 t.latch.op2 = 1
  · obtain ⟨x, hok, hlt, hinv⟩ := modInvF_of_coprime hpos hcop
    rw [runModinv_of_ok rd hok]
    exact ⟨rfl, fun _ => ⟨⟨x, State.readBr_commit _ false (hlt.trans hmfits), hlt, hinv⟩, rfl⟩, fun h => absurd hcop h⟩
  · rw [runModinv_of_notCoprime rd (modInvF_of_not_coprime hpos hcop)]
    exact ⟨rfl, fun h => absurd h hcop, fun _ => ⟨rfl, rfl⟩⟩

end Sys2Proof.Machine
end
section
/-! PROOFS. The miller_rabin_test_controller (42_primality.md): SPLIT (R83), one round's verdict in powers (R77) and on a prime
(R80), the five-round driver (R84), and the results of MR_ROUND_W and IS_PRIME (R82, R85). -/

namespace Sys2Proof.Machine

/-! ### SPLIT -/

/-- Halving keeps the value 2^s * d, and with a pass for every bit of d it ends with d odd (42_primality.md R83). -/
theorem splitLoop_spec (fuel s : Nat) {d : Nat} (hd : d ≠ 0) (hfuel : bitLen d ≤ fuel) :
    2 ^ (splitLoop fuel s d).1 * (splitLoop fuel s d).2 = 2 ^ s * d ∧ (splitLoop fuel s d).2 % 2 = 1 := by
  have hhalf := bitLen_half hd
  induction fuel generalizing s d with
  | zero => omega
  | succ fuel ih =>
    rw [splitLoop]
    split
    case isTrue heven =>
      have hhalf0 : d / 2 ≠ 0 := by omega
      obtain ⟨hvalue, hodd⟩ := ih (s + 1) hhalf0 (by omega) (bitLen_half hhalf0)
      refine ⟨?_, hodd⟩
      rw [hvalue, Nat.pow_succ, Nat.mul_assoc, Nat.mul_div_cancel' (Nat.dvd_of_mod_eq_zero heven)]
    case isFalse hodd => exact ⟨rfl, Nat.mod_two_ne_zero.mp hodd⟩

/-- Settles O23. -/
theorem splitGivesOddPart : Obligations.SplitGivesOddPart := by
  intro n h2
  obtain ⟨hvalue, hodd⟩ := splitLoop_spec (bitLen (n - 1)) 0 (show n - 1 ≠ 0 by omega) le_rfl
  exact ⟨by rw [split, hvalue, Nat.pow_zero, Nat.one_mul], hodd⟩

/-! ### The squaring loop -/

/-- The squarings of 42_primality.md R77 that start from a^d come to n - 1 while their exponent is in bounds. -/
def SquaringReaches (a d n : Nat) : Prop := ∃ r, d * 2 ^ r < n - 1 ∧ a ^ (d * 2 ^ (r + 1)) % n = n - 1

/-- One pass of the loop: the next square is n - 1, or a later one is. -/
theorem squaringReaches_iff (a d n : Nat) :
    SquaringReaches a d n ↔ d < n - 1 ∧ (a ^ (2 * d) % n = n - 1 ∨ SquaringReaches a (2 * d) n) := by
  have hdouble : ∀ r, d * 2 ^ (r + 1) = 2 * d * 2 ^ r := fun r => by rw [Nat.pow_succ']; ring
  constructor
  · rintro ⟨r, hbound, hpow⟩
    have hd : d < n - 1 := (Nat.le_mul_of_pos_right d (Nat.two_pow_pos r)).trans_lt hbound
    rw [hdouble] at hpow
    cases r with
    | zero => exact ⟨hd, .inl (by simpa using hpow)⟩
    | succ r => exact ⟨hd, .inr ⟨r, hdouble r ▸ hbound, hpow⟩⟩
  · rintro ⟨hd, hpow | ⟨r, hbound, hpow⟩⟩
    · exact ⟨0, by simpa using hd, by simpa [Nat.mul_comm] using hpow⟩
    · exact ⟨r + 1, (hdouble r).symm ▸ hbound, (hdouble (r + 1)).symm ▸ hpow⟩

/-- Once a power is 1 every later square is 1, which is not n - 1. -/
theorem not_squaringReaches_of_pow_eq_one {a d n : Nat} (hn : 3 ≤ n) (h : a ^ d % n = 1) : ¬SquaringReaches a d n := by
  rintro ⟨r, -, hpow⟩
  rw [Nat.pow_mul, Nat.pow_mod, h, Nat.one_pow, Nat.mod_eq_of_lt (by omega)] at hpow
  omega

/-- The loop, entered with x = a^d mod n and enough fuel, reports ProbablyPrime exactly when the squarings reach n - 1
(42_primality.md R77, R79). -/
theorem squareLoop_verdict_iff {a : Nat} (fuel : Nat) {t : Tester} (hn : 3 ≤ t.n) (hx : t.x = a ^ t.d % t.n)
    (hfuel : t.n - 1 ≤ 2 ^ fuel * t.d) : (Tester.squareLoop fuel t).1 = true ↔ SquaringReaches a t.d t.n := by
  induction fuel generalizing t with
  | zero =>
    have hend : ¬t.d < t.n - 1 := by omega
    simp [Tester.squareLoop, squaringReaches_iff a t.d, hend]
  | succ fuel ih =>
    have hsquare : t.x * t.x % t.n = a ^ (2 * t.d) % t.n := by rw [hx, ← Nat.mul_mod, ← Nat.pow_add, two_mul]
    rw [Tester.squareLoop, squaringReaches_iff a t.d]
    dsimp only
    rw [hsquare]
    split_ifs with hd hone hlast
    · have hne : ¬1 = t.n - 1 := by omega
      simp [hone, hne, not_squaringReaches_of_pow_eq_one hn hone]
    · simp [hd, hlast]
    · have hnext : t.n - 1 ≤ 2 ^ fuel * (2 * t.d) := by rwa [← Nat.mul_assoc, ← Nat.pow_succ]
      have hrest := ih (t := { t with x := a ^ (2 * t.d) % t.n, d := 2 * t.d }) hn rfl hnext
      simp [hd, hlast, hrest]
    · simp [hd]

/-! ### One round -/

/-- The round's condition in the order the round looks at it: the first power, then the squarings. -/
theorem roundPasses_iff (a d n : Nat) :
    RoundPasses a d n ↔ (a ^ d % n = 1 ∨ a ^ d % n = n - 1) ∨ SquaringReaches a d n := by
  rw [RoundPasses, or_assoc]
  refine or_congr_right ⟨?_, ?_⟩
  · rintro ⟨r, hbound, hpow⟩
    cases r with
    | zero => exact .inl (by simpa using hpow)
    | succ r => exact .inr ⟨r, by simpa using hbound, hpow⟩
  · rintro (hpow | ⟨r, hbound, hpow⟩)
    · exact ⟨0, .inl rfl, by simpa using hpow⟩
    · exact ⟨r + 1, .inr hbound, hpow⟩

/-- What the tester holds besides n, d and a does not show in a round's verdict (42_primality.md R77). -/
theorem Tester.mrCore_verdict_iff {t : Tester} (hn : 5 ≤ t.n) : t.mrCore.verdict = true ↔ RoundPasses t.a t.d t.n := by
  have hpow : (Engine.after t.a t.d t.n).r = t.a ^ t.d % t.n := modExp_eq_pow_mod t.a t.d t.n
  rw [roundPasses_iff, Tester.mrCore]
  simp only [hpow]
  split_ifs with hfirst
  · simp [hfirst]
  · have hd : t.d ≠ 0 := by
      intro h0
      rw [h0, Nat.pow_zero, Nat.mod_eq_of_lt (by omega)] at hfirst
      exact hfirst (.inl rfl)
    have hfuel : t.n - 1 ≤ 2 ^ bitLen t.n * t.d := by
      have hlen := lt_two_pow_bitLen t.n
      have hmul := Nat.le_mul_of_pos_right (2 ^ bitLen t.n) (Nat.pos_of_ne_zero hd)
      omega
    have hloop := squareLoop_verdict_iff (t := { t with x := t.a ^ t.d % t.n }) _ (by omega : 3 ≤ t.n) rfl hfuel
    simp [hfirst, hloop]

/-- Settles O24. -/
theorem roundVerdict : Obligations.RoundVerdict := fun _ _ _ hn => Tester.mrCore_verdict_iff hn

theorem mrCore_verdict_eq {t : Tester} (hn : 5 ≤ t.n) : t.mrCore.verdict = mrCore t.a t.d t.n :=
  Bool.eq_iff_iff.mpr ((Tester.mrCore_verdict_iff hn).trans (roundVerdict t.a t.d t.n hn).symm)

/-! ### A prime passes -/

/-- Modulo a prime, 1 has no square roots but 1 and n - 1. -/
theorem mod_eq_of_sq_mod_eq_one {n x : Nat} (hp : n.Prime) (h : x ^ 2 % n = 1) : x % n = 1 ∨ x % n = n - 1 := by
  have : Fact n.Prime := ⟨hp⟩
  have hpos := hp.pos
  have hone : 1 % n = 1 := Nat.mod_eq_of_lt hp.one_lt
  have hlast : (n - 1) % n = n - 1 := Nat.mod_eq_of_lt (by omega)
  have hsq : (x : ZMod n) * x = 1 := by
    have hcast := (ZMod.natCast_eq_natCast_iff' (x ^ 2) 1 n).mpr (h.trans hone.symm)
    simpa [sq] using hcast
  refine (mul_self_eq_one_iff.mp hsq).imp (fun h1 => ?_) fun hm1 => ?_
  · exact ((ZMod.natCast_eq_natCast_iff' x 1 n).mp (by simpa using h1)).trans hone
  · exact ((ZMod.natCast_eq_natCast_iff' x (n - 1) n).mp (by simp [hm1, Nat.cast_sub hp.one_le])).trans hlast

/-- Going back from a power that is 1, square root by square root: all are 1, or one of them is n - 1. -/
theorem pow_mod_eq_one_or_last {a d n : Nat} (hp : n.Prime) (k : Nat) (h : a ^ (d * 2 ^ k) % n = 1) :
    a ^ d % n = 1 ∨ ∃ r < k, a ^ (d * 2 ^ r) % n = n - 1 := by
  induction k with
  | zero => exact .inl (by simpa using h)
  | succ k ih =>
    rw [Nat.pow_succ, ← Nat.mul_assoc, Nat.pow_mul] at h
    rcases mod_eq_of_sq_mod_eq_one hp h with hone | hlast
    · exact (ih hone).imp_right fun ⟨r, hr, hpow⟩ => ⟨r, by omega, hpow⟩
    · exact .inr ⟨k, by omega, hlast⟩

/-- A prime n with n - 1 = 2^s * d passes the round with d, whatever the witness, by Fermat (42_primality.md R80). -/
theorem roundPasses_of_prime {a d n s : Nat} (hp : n.Prime) (hsplit : n - 1 = 2 ^ s * d) (ha : a ≠ 0) (hlt : a < n) :
    RoundPasses a d n := by
  have hfermat : a ^ (d * 2 ^ s) % n = 1 := by
    have hcop : a.Coprime n := (Nat.coprime_of_lt_prime ha hlt hp).symm
    have htotient := Nat.ModEq.pow_totient hcop
    rw [Nat.totient_prime hp, hsplit, Nat.mul_comm] at htotient
    exact Eq.trans htotient (Nat.mod_eq_of_lt hp.one_lt)
  refine (pow_mod_eq_one_or_last hp s hfermat).imp_right fun ⟨r, hr, hpow⟩ => ⟨r, ?_, hpow⟩
  have hd : 0 < d := Nat.pos_of_ne_zero fun h0 => by have := hp.two_le; simp [h0] at hsplit; omega
  have hbound : 2 ^ (r - 1) < 2 ^ s := Nat.pow_lt_pow_right (by omega) (by omega)
  exact .inr (by rw [hsplit, Nat.mul_comm]; exact Nat.mul_lt_mul_of_pos_right hbound hd)

/-- Settles O25. -/
theorem primePassesEveryRound : Obligations.PrimePassesEveryRound := by
  intro a n h5 hp h2 hle
  obtain ⟨hsplit, -⟩ := splitGivesOddPart n (by omega)
  exact (roundVerdict a _ n h5).mpr (roundPasses_of_prime hp hsplit (by omega) (by omega))

/-! ### The driver -/

/-- Every answer of a list of draws lies in the interval (00_scope.md R13). -/
theorem Source.drawList_mem (u : UnitId) {lo hi : Nat} (h : lo ≤ hi) (k : Nat) (src : Source) :
    ∀ a ∈ (src.drawList u lo hi k).1, lo ≤ a ∧ a ≤ hi := by
  induction k generalizing src with
  | zero => exact fun _ ha => absurd ha List.not_mem_nil
  | succ k ih => exact List.forall_mem_cons.mpr ⟨Source.draw_mem u src h, ih _⟩

section
variable {u : UnitId} {n s d left j : Nat} {src : Source} {t : Tester} {g : Engine} (hn : 5 ≤ n)
include hn

/-- One round of the driver: it goes on where the witness drawn passes, and stops where it does not
(42_primality.md R84). -/
theorem primeRounds_succ :
    (mrCore (src.draw u 2 (n - 2)).1 d n = true ∧
      ∃ t' g', primeRounds u n s d (left + 1) j src t g =
        primeRounds u n s d left (j + 1) (src.draw u 2 (n - 2)).2 t' g') ∨
    (mrCore (src.draw u 2 (n - 2)).1 d n = false ∧
      (primeRounds u n s d (left + 1) j src t g).verdict = false ∧
      (primeRounds u n s d (left + 1) j src t g).src = (src.draw u 2 (n - 2)).2) := by
  rw [primeRounds, mrCore_verdict_eq hn]
  split
  case isTrue hpass => exact .inl ⟨hpass, _, _, rfl⟩
  case isFalse hfail => exact .inr ⟨Bool.not_eq_true _ ▸ hfail, rfl, rfl⟩

/-- Rounds that report ProbablyPrime drew all their witnesses, and each passed (42_primality.md R84). -/
theorem primeRounds_of_probablyPrime (h : (primeRounds u n s d left j src t g).verdict = true) :
    (∀ a ∈ (src.drawList u 2 (n - 2) left).1, mrCore a d n = true) ∧
    (primeRounds u n s d left j src t g).src = (src.drawList u 2 (n - 2) left).2 := by
  induction left generalizing j src t g with
  | zero => exact ⟨fun _ ha => absurd ha List.not_mem_nil, rfl⟩
  | succ left ih =>
    rcases primeRounds_succ hn with ⟨hpass, t', g', hgo⟩ | ⟨-, hfalse, -⟩
    · rw [hgo] at h ⊢
      obtain ⟨hrest, hsrc⟩ := ih h
      exact ⟨List.forall_mem_cons.mpr ⟨hpass, hrest⟩, hsrc⟩
    · exact absurd h (by simp [hfalse])

/-- Rounds that report Composite stopped at the first witness that did not pass (42_primality.md R84). -/
theorem primeRounds_of_composite (h : (primeRounds u n s d left j src t g).verdict = false) :
    ∃ k < left, (∀ a ∈ (src.drawList u 2 (n - 2) k).1, mrCore a d n = true) ∧
      mrCore ((src.drawList u 2 (n - 2) k).2.draw u 2 (n - 2)).1 d n = false ∧
      (primeRounds u n s d left j src t g).src = (src.drawList u 2 (n - 2) (k + 1)).2 := by
  induction left generalizing j src t g with
  | zero => exact absurd h.symm Bool.false_ne_true
  | succ left ih =>
    rcases primeRounds_succ hn with ⟨hpass, t', g', hgo⟩ | ⟨hfail, -, hsrc⟩
    · rw [hgo] at h ⊢
      obtain ⟨k, hk, hbefore, hfail, hsrc⟩ := ih h
      exact ⟨k + 1, by omega, List.forall_mem_cons.mpr ⟨hpass, hbefore⟩, hfail, hsrc⟩
    · exact ⟨0, by omega, fun _ ha => absurd ha List.not_mem_nil, hfail, hsrc⟩

theorem primeTest_of_five_le :
    primeTest u n src = primeRounds u n (split n).1 (split n).2 5 1 src .empty .empty := by
  rw [primeTest, if_neg (by omega), if_neg (by omega)]
  rfl

end

theorem primeTest_of_le_one_or_four {n : Nat} (u : UnitId) (src : Source) (h : n ≤ 1 ∨ n = 4) :
    primeTest u n src = { verdict := false, src := src, tester := .empty, engine := .empty } := if_pos h

theorem primeTest_of_two_or_three {n : Nat} (u : UnitId) (src : Source) (h : n = 2 ∨ n = 3) :
    primeTest u n src = { verdict := true, src := src, tester := .empty, engine := .empty } := by
  rw [primeTest, if_neg (by omega), if_pos (by omega)]

/-- ISPRIME accepts every prime, since no witness it can draw makes a round fail (42_primality.md R80, R84). -/
theorem primeTest_of_prime {n : Nat} (u : UnitId) (src : Source) (hp : n.Prime) : (primeTest u n src).verdict = true := by
  rcases Nat.lt_or_ge n 5 with hlt | hn
  · have hne4 : n ≠ 4 := by rintro rfl; exact absurd hp (by decide)
    have h2 := hp.two_le
    rw [primeTest_of_two_or_three u src (by omega)]
  · by_contra hverdict
    rw [primeTest_of_five_le hn, Bool.not_eq_true] at hverdict
    obtain ⟨k, -, -, hfail, -⟩ := primeRounds_of_composite hn hverdict
    obtain ⟨hlo, hhi⟩ := Source.draw_mem u (src.drawList u 2 (n - 2) k).2 (show 2 ≤ n - 2 by omega)
    exact Bool.false_ne_true (hfail.symm.trans (primePassesEveryRound _ n hn hp hlo hhi))

/-! ### MR_ROUND_W and IS_PRIME -/

/-- x[rd] after the commit of a verdict (42_primality.md R76). -/
theorem State.readBr_commit_verdict (s : State) (rd : Nat) (v r : Bool) :
    (s.commit [(rd, v.toNat)] r).readBr rd = if v then 1 else 0 :=
  (State.readBr_commit s r (Params.toNat_lt_two_pow_maxBits _ v)).trans (Bool.cond_eq_ite v 1 0)

/-- A command that starts in EXEC, issued in its domain, takes its execution step on the operands latched and on the random
sources as they were (50_host_interface.md R106 to R108). -/
theorem exec_issue_run_latch {i : Instr} {s : State} (hb : s.status.busy = false) (hstart : i.start = State.startExec)
    (hdomain : i.outside s.params (i.sources.latch s) = false) :
    ∃ t, exec i s = .next t ∧ t.status = { s.status with busy := true, state := .exec } ∧ exec i t = .next (i.run t) ∧
      t.latch = i.sources.latch s ∧ t.rng0 = s.rng0 ∧ t.rng1 = s.rng1 := by
  obtain ⟨hissue, hrun⟩ := exec_issue_run hb hstart hdomain
  exact ⟨_, hissue, rfl, hrun, rfl, rfl, rfl⟩

/-- MR_ROUND_W's execution step commits the verdict for the witness latched (42_primality.md R82). -/
theorem runMrRoundW_eq_commit (rd : Nat) (s : State) :
    runMrRoundW rd s =
      s.commit [(rd, (mrCore s.latch.op3 s.latch.op1 s.latch.op2).toNat)] (mrCore s.latch.op3 s.latch.op1 s.latch.op2) := rfl

/-- Settles O31. -/
theorem mrRoundWResult : Obligations.MrRoundWResult := by
  intro s rd rs1 rs2 rs3 d n a hb h1 h2 h3 hn hlo hhi
  subst h1 h2 h3
  have hinside : ¬(s.readBr rs2 < 5 ∨ s.readBr rs3 < 2 ∨ s.readBr rs2 - 2 < s.readBr rs3) := by omega
  obtain ⟨t, hissue, hstatus, hrun, hlatch, hrng0, hrng1⟩ :=
    exec_issue_run_latch (i := .mrRoundW rd rs1 rs2 rs3) hb rfl
      (Bool.eq_false_iff.mpr (mrRoundWOutside_iff.not.mpr hinside))
  have hcommit := runMrRoundW_eq_commit rd t
  rw [hlatch] at hcommit
  exact ⟨t, _, hissue, hstatus, hrun.trans (congrArg _ hcommit), State.readBr_commit_verdict t rd _ _, rfl, rfl, hrng0, hrng1⟩

/-- IS_PRIME's execution step commits what ISPRIME_0 reports of the operand latched and moves RNG0 on
(42_primality.md R85). -/
theorem runIsPrime_eq_commit (rd : Nat) (s : State) :
    runIsPrime rd s =
      (s.setRng .u0 (primeTest .u0 s.latch.op1 s.rng0).src).commit
        [(rd, (primeTest .u0 s.latch.op1 s.rng0).verdict.toNat)] (primeTest .u0 s.latch.op1 s.rng0).verdict := rfl

/-- IS_PRIME has no domain error: it issues, and then commits what ISPRIME_0 reports of its operand
(42_primality.md R85). -/
theorem exec_isPrime_commits {s : State} {rs1 : Nat} {r : PrimeTest} (rd : Nat) (hb : s.status.busy = false)
    (hr : primeTest .u0 (s.readBr rs1) s.rng0 = r) :
    ∃ t u, exec (.isPrime rd rs1) s = .next t ∧ t.status = { s.status with busy := true, state := .exec } ∧
      exec (.isPrime rd rs1) t = .next u ∧ u.readBr rd = (if r.verdict then 1 else 0) ∧
      u.status = { busy := false, done := true, err := false, result := r.verdict, errCode := .noError, state := .idle } ∧
      u.irq.doneP = true ∧ u.rng0 = r.src ∧ u.rng1 = s.rng1 := by
  obtain ⟨t, hissue, hstatus, hrun, hlatch, hrng0, hrng1⟩ := exec_issue_run_latch (i := .isPrime rd rs1) hb rfl rfl
  have hop1 : t.latch.op1 = s.readBr rs1 := congrArg Latch.op1 hlatch
  have hcommit : runIsPrime rd t = (t.setRng .u0 r.src).commit [(rd, r.verdict.toNat)] r.verdict := by
    rw [runIsPrime_eq_commit, hop1, hrng0, hr]
  exact ⟨t, _, hissue, hstatus, hrun.trans (congrArg _ hcommit), State.readBr_commit_verdict _ rd _ _, rfl, rfl, rfl, hrng1⟩

/-- Settles O32, by the small cases and the two verdicts of the driver. -/
theorem isPrimeResult : Obligations.IsPrimeResult := by
  intro s rd rs1 n hb h1
  subst h1
  generalize hr : primeTest .u0 (s.readBr rs1) s.rng0 = r
  obtain ⟨t, u, hissue, hstatus, hrun, hread, hended, hirq, hrng0, hrng1⟩ := exec_isPrime_commits rd hb hr
  refine ⟨t, u, r.verdict, hissue, hstatus, hrun, hread, hended, hirq, hrng1, fun h => ?rejected, fun h => ?accepted,
    fun hn => Source.drawList_mem .u0 (by omega) 5 s.rng0, fun hn hv => ?probablyPrime, fun hn hv => ?composite⟩
  all_goals rw [hrng0]
  case rejected => rw [← hr, primeTest_of_le_one_or_four .u0 s.rng0 h]; exact ⟨rfl, rfl⟩
  case accepted => rw [← hr, primeTest_of_two_or_three .u0 s.rng0 h]; exact ⟨rfl, rfl⟩
  case probablyPrime =>
    rw [← hr, primeTest_of_five_le hn] at hv ⊢
    exact primeRounds_of_probablyPrime hn hv
  case composite =>
    rw [← hr, primeTest_of_five_le hn] at hv ⊢
    exact primeRounds_of_composite hn hv

/-- Settles O33. -/
theorem isPrimeAcceptsEveryPrime : Obligations.IsPrimeAcceptsEveryPrime := by
  intro s rd rs1 n hb h1 hp
  subst h1
  obtain ⟨t, u, hissue, -, hrun, hread, hended, -⟩ := exec_isPrime_commits rd hb rfl
  rw [primeTest_of_prime .u0 s.rng0 hp] at hread hended
  exact ⟨t, u, hissue, hrun, hread, congrArg Status.result hended⟩

end Sys2Proof.Machine
end

section
/-! PROOFS. The rejection_sample_prime_generator (43_prime_generator.md): how GEN_PRIME and KEYGEN start their searches (R91,
R93, R94), one candidate step of a unit (R87), and the end of GEN_PRIME (R92). -/

namespace Sys2Proof.Machine

/-! ### The start of a search -/

/-- An issue in the command's domain latches and starts it (50_host_interface.md R106). -/
theorem exec_starts {i : Instr} {s : State} (hb : s.status.busy = false)
    (hdomain : i.outside s.params (i.sources.latch s) = false) : exec i s = .next (i.start (s.latched i.sources)) :=
  (exec_of_idle i hb).trans (State.issue_starts hdomain)

/-- GEN_PRIME with a legal bit length starts UNIT0's search (43_prime_generator.md R91, 60_exceptions.md R126). -/
theorem exec_genPrime_starts {s : State} (rd : Nat) (hb : s.status.busy = false) (hmin : 2 ≤ s.bitsize.toNat)
    (hmax : s.bitsize.toNat ≤ s.params.maxBits) : exec (.genPrime rd) s = .next (s.latched .f1).startGenPrime := by
  have hlegal : ¬(s.bitsize.toNat < 2 ∨ s.params.maxBits < s.bitsize.toNat) := by omega
  exact exec_starts (i := .genPrime rd) hb (decide_eq_false hlegal)

/-- KEYGEN with a legal bit size starts both units' searches (44_keypair_fsm.md R93, R94). -/
theorem exec_keygen_starts {s : State} (hb : s.status.busy = false) (heven : s.bitsize.toNat % 2 = 0)
    (hmin : 16 ≤ s.bitsize.toNat) (hmax : s.bitsize.toNat ≤ s.params.maxBits) :
    exec .keygen s = .next (s.latched .f0).enterSearching := by
  have hlegal : ¬(s.bitsize.toNat % 2 ≠ 0 ∨ s.bitsize.toNat < 16 ∨ s.params.maxBits < s.bitsize.toNat) := by omega
  exact exec_starts (i := .keygen) hb (decide_eq_false hlegal)

/-- The generator of a unit whose search has started (43_prime_generator.md R87; log entry 3). -/
theorem UnitState.searching_gen (b : Nat) :
    (UnitState.searching b).gen = { active := true, b := b, c := 0, found := false, res := 0, fail := false } := rfl

/-- Settles O35: each command starts, and what it starts with is the latch's and the start's own fields. -/
theorem searchCommandsStart : Obligations.SearchCommandsStart := by
  intro s rd hb hmax
  refine ⟨fun hmin => ⟨_, exec_genPrime_starts rd hb hmin hmax, ?genPrime⟩,
    fun heven hmin => ⟨_, exec_keygen_starts hb heven hmin hmax, ?keygen⟩⟩
  case genPrime =>
    obtain ⟨hbits, hcand, hrestart⟩ := Sources.latch_scalars s .f1
    simp [UnitState.searching_gen, Status.started, hbits, hcand, hrestart]
  case keygen =>
    obtain ⟨hbits, hcand, hrestart⟩ := Sources.latch_scalars s .f0
    simp [UnitState.searching_gen, Status.started, hbits, hcand, hrestart]

/-! ### One candidate step -/

/-- At the cap a search step reports Fail (43_prime_generator.md R87). -/
theorem State.searchStep_of_cap {s : State} {u : UnitId}
    (h : s.latch.candCap ≠ 0 ∧ (s.cntPg u).toNat = s.latch.candCap) :
    s.searchStep u = s.setUnit u { s.unit u with gen := { (s.unit u).gen with fail := true } } := if_pos h

/-- Below the cap, or with none, a search step counts and tests the candidate it draws (43_prime_generator.md R87). -/
theorem State.searchStep_of_draw {s : State} {u : UnitId} {c : Nat} {src : Source}
    (h : s.latch.candCap = 0 ∨ (s.cntPg u).toNat ≠ s.latch.candCap)
    (hdraw : (s.rng u).draw u (candLo (s.unit u).gen.b) (candHi (s.unit u).gen.b) = (c, src)) :
    s.searchStep u =
      ((s.countCandidate u).setRng u (primeTest u c src).src).setUnit u ((s.unit u).tried c (primeTest u c src)) := by
  rcases State.searchStep_cases u s with ⟨hcap, hreached, -⟩ | ⟨-, w, t, hw, ht, hstep⟩
  · exact absurd hreached (h.resolve_left hcap)
  · rw [hstep, ht, hw, hdraw]

/-- Settles O36, by whether the cap is reached. -/
theorem candidateStep : Obligations.CandidateStep := by
  refine fun s u hb => ⟨State.searchStep_of_cap, fun hopen => ?_⟩
  obtain ⟨hlo, hhi⟩ := Source.draw_mem u (s.rng u) (candLo_le_candHi hb)
  generalize hdraw : (s.rng u).draw u (candLo (s.unit u).gen.b) (candHi (s.unit u).gen.b) = w at hlo hhi
  refine ⟨w.1, w.2, hdraw.symm, hlo, hhi, ?_⟩
  rw [State.searchStep_of_draw hopen hdraw]
  exact ⟨by simp [satInc_toNat], by simp [UnitState.tried], by simp⟩

/-! ### The end of GEN_PRIME -/

section
variable {s : State} (rd : Nat)

theorem runGenPrime_of_fail (hfail : s.unit0.gen.fail = true) : runGenPrime rd s = s.completeError .attemptCap := if_pos hfail

theorem runGenPrime_of_found (hfail : s.unit0.gen.fail = false) (hfound : s.unit0.gen.found = true) :
    runGenPrime rd s = s.commit [(rd, s.unit0.gen.res)] false := by
  rw [runGenPrime, if_neg (by simp [hfail]), if_pos hfound, State.finish_eq_commit]

theorem runGenPrime_of_searching (hfail : s.unit0.gen.fail = false) (hfound : s.unit0.gen.found = false) :
    runGenPrime rd s = s := by
  rw [runGenPrime, if_neg (by simp [hfail]), if_neg (by simp [hfound])]

/-- GEN_PRIME's sequencer step is taken where the block is busy (50_host_interface.md R108). -/
theorem exec_genPrime_of_busy (hb : s.status.busy = true) : exec (.genPrime rd) s = .next (runGenPrime rd s) :=
  exec_of_busy (.genPrime rd) hb

end

/-- Settles O37, by what UNIT0 reports. -/
theorem genPrimeEnds : Obligations.GenPrimeEnds := by
  intro s rd hb
  rw [exec_genPrime_of_busy rd hb]
  refine ⟨fun hfail hfound hfits => ?found, fun hfail => ?fail, fun hfail hfound => ?searching⟩
  case found =>
    rw [runGenPrime_of_found rd hfail hfound]
    exact ⟨_, rfl, State.readBr_commit s false hfits, rfl, rfl, rfl⟩
  case fail =>
    rw [runGenPrime_of_fail rd hfail]
    exact ⟨_, rfl, rfl, rfl, rfl, rfl⟩
  case searching => rw [runGenPrime_of_searching rd hfail hfound]

/-! ### GEN_PRIME of two bits -/

theorem Params.thirtyTwo_le_maxBits (p : Params) : 32 ≤ p.maxBits := by
  have := p.maxWords_pos
  simp only [Params.maxBits]
  omega

/-- A draw from an interval of one value answers that value (00_scope.md R13). -/
theorem Source.draw_of_singleton (u : UnitId) (v : Nat) (src : Source) : src.draw u v v = (v, (src.next u).2) := by
  obtain ⟨hlo, hhi⟩ := Source.draw_mem u src (le_refl v)
  exact Prod.ext (le_antisymm hhi hlo) rfl

/-- The first step of a search for two bits finds 3, the only candidate, which ISPRIME accepts without a draw
(43_prime_generator.md R86, R87). -/
theorem State.searchStep_two_bits {s : State} (hcnt : s.cntPg0 = 0) (hunit : s.unit0 = .searching 2) :
    (s.searchStep .u0).unit0.gen = { active := true, b := 2, c := 3, found := true, res := 3, fail := false } ∧
    (s.searchStep .u0).cntPg0 = 1 ∧ (s.searchStep .u0).rng0 = (s.rng0.next .u0).2 := by
  have hopen : s.latch.candCap = 0 ∨ (s.cntPg .u0).toNat ≠ s.latch.candCap := by
    rw [State.cntPg_u0, hcnt]
    exact (eq_or_ne s.latch.candCap 0).imp_right Ne.symm
  have hdraw : (s.rng .u0).draw .u0 (candLo (s.unit .u0).gen.b) (candHi (s.unit .u0).gen.b) =
      (3, (s.rng0.next .u0).2) := by
    rw [State.unit_u0, hunit]
    exact Source.draw_of_singleton .u0 3 s.rng0
  rw [State.searchStep_of_draw hopen hdraw, primeTest_of_two_or_three .u0 _ (.inr rfl), State.unit_u0, hunit]
  refine ⟨rfl, ?_, rfl⟩
  rw [State.setUnit_cntPg0, State.setRng_cntPg0, State.countCandidate_u0_cntPg0, hcnt]
  rfl

/-- Settles O38: the issue starts a search for two bits, whose first step finds 3. -/
theorem genPrimeOfTwoBits : Obligations.GenPrimeOfTwoBits := by
  intro s rd hb hbits
  have hwide := Params.thirtyTwo_le_maxBits s.params
  have hfits : 3 < 2 ^ s.params.maxBits := lt_trans (by omega) Nat.lt_two_pow_self
  obtain ⟨t, hissue, hunit, hzero, hsrc, hparams, hbusy⟩ : ∃ t, exec (.genPrime rd) s = .next t ∧
      t.unit0 = .searching 2 ∧ t.cntPg0 = 0 ∧ t.rng0 = s.rng0 ∧ t.params = s.params ∧ t.status.busy = true :=
    ⟨_, exec_genPrime_starts rd hb hbits.ge (by omega), by
      simp [Status.started, (Sources.latch_scalars s .f1).1, hbits]⟩
  obtain ⟨hgen, hcnt, hrng⟩ := State.searchStep_two_bits hzero hunit
  obtain ⟨hparams', -, -, -, -, hstatus, -⟩ := State.searchStep_frame .u0 t
  refine ⟨t, _, hissue, exec_genPrime_of_busy rd (hstatus ▸ hbusy), ?_⟩
  rw [runGenPrime_of_found rd (by rw [hgen]) (by rw [hgen]), hgen, State.commit_cntPg0]
  refine ⟨State.readBr_commit _ false (by rw [hparams', hparams]; exact hfits), hcnt, rfl, rfl, fun hnil => ?_⟩
  rw [State.commit_rng0, hrng, hsrc]
  exact congrArg Prod.snd (Source.draw_of_nil .u0 3 3 hnil)

end Sys2Proof.Machine
end

section
/-! PROOFS. The keypair_derivation_fsm (44_keypair_fsm.md): the sequencer's step in each KEYGEN state (R94 to R100), the sizes of
the keypair values (R95, R102), the exponent test (R96, R97), and what every step keeps of the values. -/

namespace Sys2Proof.Machine

/-! ### The sequencer's step in each state -/

section
variable {s : State}

/-- A running KEYGEN takes the FSM's step (50_host_interface.md R108). -/
theorem exec_keygen_of_busy (hb : s.status.busy = true) : exec .keygen s = .next (runKeygen s) := exec_of_busy .keygen hb

theorem runKeygen_of_searching (h : s.status.state = .searchingPrimes) : runKeygen s = keygenJoin s := by rw [runKeygen, h]

theorem runKeygen_of_modulus (h : s.status.state = .computingModulus) : runKeygen s = keygenModulus s := by rw [runKeygen, h]

theorem runKeygen_of_validating (h : s.status.state = .validatingExponent) : runKeygen s = keygenValidate s := by
  rw [runKeygen, h]

theorem runKeygen_of_private (h : s.status.state = .computingPrivateExponent) : runKeygen s = keygenPrivate s := by
  rw [runKeygen, h]

theorem runKeygen_of_done (h : s.status.state = .done) : runKeygen s = s.commit s.seq.key.results false := by
  rw [runKeygen, h]

end

/-! ### The join (R94) -/

theorem keygenJoin_of_fail {s : State} (h : s.unit0.gen.fail = true ∨ s.unit1.gen.fail = true) :
    keygenJoin s = s.completeError .attemptCap := if_pos ((Bool.or_eq_true _ _).mpr h)

section
variable {s : State} (hfail0 : s.unit0.gen.fail = false) (hfail1 : s.unit1.gen.fail = false)
include hfail0 hfail1

theorem keygenJoin_of_found (hfound0 : s.unit0.gen.found = true) (hfound1 : s.unit1.gen.found = true) :
    keygenJoin s =
      s.stopUnits.moveTo .computingModulus { s.seq.key with p := s.unit0.gen.res, q := s.unit1.gen.res } := by
  simp [keygenJoin, hfail0, hfail1, hfound0, hfound1]

theorem keygenJoin_of_searching (h : s.unit0.gen.found = false ∨ s.unit1.gen.found = false) : keygenJoin s = s := by
  have hnot : ¬(s.unit0.gen.found = true ∧ s.unit1.gen.found = true) := by rcases h with h | h <;> simp [h]
  simp [keygenJoin, hfail0, hfail1, hnot]

end

/-- Settles O39, by what the two units report. -/
theorem keygenJoinStep : Obligations.KeygenJoinStep := by
  intro s hb hst
  rw [exec_keygen_of_busy hb, runKeygen_of_searching hst]
  refine ⟨fun hfail => ?fail, fun hfail0 hfail1 hfound0 hfound1 => ?found, fun hfail0 hfail1 hsearch => ?searching⟩
  case fail => exact ⟨_, congrArg _ (keygenJoin_of_fail hfail), rfl, rfl, rfl, rfl⟩
  case found => exact ⟨_, congrArg _ (keygenJoin_of_found hfail0 hfail1 hfound0 hfound1), rfl, rfl, rfl, rfl, rfl, rfl⟩
  case searching => rw [keygenJoin_of_searching hfail0 hfail1 hsearch]

/-! ### COMPUTING_MODULUS (R95) -/

/-- The values it leaves: the product, and the least common multiple of p - 1 and q - 1. -/
theorem keygenModulus_eq (s : State) :
    keygenModulus s = (s.setNt (steinScratch (s.seq.key.p - 1) (s.seq.key.q - 1))).moveTo .validatingExponent
      { s.seq.key with n := s.seq.key.p * s.seq.key.q, lam := Nat.lcm (s.seq.key.p - 1) (s.seq.key.q - 1) } := by
  rw [keygenModulus, lcmF_eq_lcm]

/-! ### VALIDATING_EXPONENT (R96) -/

theorem keygenValidate_of_coprime {s : State} (h : Nat.gcd 65537 s.seq.key.lam = 1) :
    keygenValidate s = (s.setNt (steinScratch 65537 s.seq.key.lam)).moveTo .computingPrivateExponent
      { s.seq.key with e := 65537 } := by
  simp [keygenValidate, Config.ePub, stein_eq_gcd, h]

section
variable {s : State} (hgcd : Nat.gcd 65537 s.seq.key.lam ≠ 1)
include hgcd

theorem keygenValidate_of_cap (hcap : s.latch.restartCap ≠ 0) (hcnt : s.cntRestart.toNat = s.latch.restartCap) :
    keygenValidate s = (s.setNt (steinScratch 65537 s.seq.key.lam)).completeError .attemptCap := by
  simp [keygenValidate, Config.ePub, stein_eq_gcd, hgcd, hcap, hcnt]

theorem keygenValidate_of_restart (h : s.latch.restartCap = 0 ∨ s.cntRestart.toNat ≠ s.latch.restartCap) :
    keygenValidate s = keygenRestart { s.seq.key with e := 65537 } (s.setNt (steinScratch 65537 s.seq.key.lam)) := by
  have hopen : ¬(s.latch.restartCap ≠ 0 ∧ s.cntRestart.toNat = s.latch.restartCap) := by tauto
  simp only [keygenValidate, Config.ePub, stein_eq_gcd, if_pos hgcd, if_neg hopen]

end

/-- Settles O41, by the exponent test and the restart cap. -/
theorem keygenValidateStep : Obligations.KeygenValidateStep := by
  intro s hb hst
  rw [exec_keygen_of_busy hb, runKeygen_of_validating hst]
  refine ⟨fun hgcd => ?goesOn, fun hgcd hcap hcnt => ?cap, fun hgcd hopen => ?restart⟩
  case goesOn => exact ⟨_, congrArg _ (keygenValidate_of_coprime hgcd), rfl, rfl, rfl, rfl⟩
  case cap => exact ⟨_, congrArg _ (keygenValidate_of_cap hgcd hcap hcnt), rfl, rfl, rfl⟩
  case restart =>
    exact ⟨_, congrArg _ (keygenValidate_of_restart hgcd hopen), Status.started_of_busy _ hb, satInc_toNat _, rfl, rfl, rfl,
      rfl, rfl, rfl, rfl⟩

/-! ### COMPUTING_PRIVATE_EXPONENT (R98) -/

/-- The keypair values with d and qInv as given, and with the two remainders of d (44_keypair_fsm.md R98). -/
def KeyRegs.withPrivate (k : KeyRegs) (d v : Nat) : KeyRegs :=
  { k with d := d, dP := d % (k.p - 1), dQ := d % (k.q - 1), qInv := v }

/-- Where e is coprime to λ and q to p, it leaves d, dP, dQ and qInv that satisfy their equations. -/
theorem keygenPrivate_of_coprime {s : State} (hlam : 2 ≤ s.seq.key.lam) (hp : 2 ≤ s.seq.key.p)
    (he : Nat.gcd s.seq.key.e s.seq.key.lam = 1) (hqp : Nat.gcd s.seq.key.q s.seq.key.p = 1) :
    ∃ d v, (s.seq.key.withPrivate d v).PrivateKnown ∧
      keygenPrivate s = (s.setNt (euclidScratch s.seq.key.q s.seq.key.p)).moveTo .done (s.seq.key.withPrivate d v) := by
  obtain ⟨d, hd, hdlt, hdinv⟩ := modInvF_of_coprime (by omega) he
  obtain ⟨v, hv, hvlt, hvinv⟩ := modInvF_of_coprime (by omega) hqp
  refine ⟨d, v, ⟨?_, hdlt, rfl, rfl, ?_, hvlt⟩, ?_⟩
  · exact Nat.mul_comm _ d ▸ hdinv hlam
  · exact Nat.mul_comm _ v ▸ hvinv hp
  · simp only [keygenPrivate, hd, hv, KeyRegs.withPrivate]

/-- Where q is not coprime to p the command ends with NOT_COPRIME, whatever the exponent. -/
theorem keygenPrivate_of_not_coprime {s : State} (hp : 1 ≤ s.seq.key.p) (hqp : Nat.gcd s.seq.key.q s.seq.key.p ≠ 1) :
    keygenPrivate s = s.completeError .notCoprime := by
  unfold keygenPrivate
  dsimp only
  split
  · rfl
  · simp only [modInvF_of_not_coprime hp hqp]

/-! ### Sizes of the keypair values (R95, R102) -/

theorem candLo_le_iff {b c : Nat} : candLo b ≤ c ↔ 2 ^ (b - 1) < c := Nat.succ_le_iff

theorem le_candHi_iff {b c : Nat} : c ≤ candHi b ↔ c < 2 ^ b := Nat.le_sub_one_iff_lt (Nat.two_pow_pos b)

/-- The modulus of two factors of half the bits has the bits, or one bit less (44_keypair_fsm.md R102). -/
theorem two_pow_lt_mul_lt {p q h : Nat} (hh : 1 ≤ h) (hp : 2 ^ (h - 1) < p ∧ p < 2 ^ h)
    (hq : 2 ^ (h - 1) < q ∧ q < 2 ^ h) :
    2 ^ (2 * h - 2) < p * q ∧ p * q < 2 ^ (2 * h) := by
  have hlo : 2 ^ (2 * h - 2) = 2 ^ (h - 1) * 2 ^ (h - 1) := by rw [← Nat.pow_add]; congr 1; omega
  have hhi : 2 ^ (2 * h) = 2 ^ h * 2 ^ h := by rw [← Nat.pow_add]; congr 1; omega
  rw [hlo, hhi]
  exact ⟨Nat.mul_lt_mul'' hp.1 hq.1, Nat.mul_lt_mul'' hp.2 hq.2⟩

theorem pred_le_lcm_pred {p q : Nat} (hp : 2 ≤ p) (hq : 2 ≤ q) : p - 1 ≤ Nat.lcm (p - 1) (q - 1) :=
  Nat.le_of_dvd (Nat.lcm_pos (by omega) (by omega)) (Nat.dvd_lcm_left _ _)

theorem lcm_pred_lt_mul {p q : Nat} (hp : 2 ≤ p) (hq : 2 ≤ q) : Nat.lcm (p - 1) (q - 1) < p * q :=
  calc Nat.lcm (p - 1) (q - 1)
      ≤ (p - 1) * (q - 1) := Nat.le_of_dvd (Nat.mul_pos (by omega) (by omega)) (Nat.lcm_dvd_mul _ _)
    _ < p * q := Nat.mul_lt_mul'' (by omega) (by omega)

section
variable {s : State}

/-- In each state of the FSM after the join KEYGEN runs (10_state.md R21). -/
theorem State.ControlInv.keygenRuns (hs : s.ControlInv) (h : s.status.state.derives = true) :
    s.status.busy = true ∧ s.KeygenRuns := by
  obtain ⟨⟨hbusy, -⟩, -, hk, -⟩ := (State.controlInv_of_derives h).mp hs
  exact ⟨hbusy.mpr fun hidle => by simp [hidle, SeqState.derives] at h, hk⟩

/-- A legal bit size is even and its half is at least 8 (44_keypair_fsm.md R93). -/
theorem State.KeygenRuns.half (hk : s.KeygenRuns) : 8 ≤ s.latch.bits / 2 ∧ 2 * (s.latch.bits / 2) = s.latch.bits := by
  obtain ⟨-, heven, hmin, -⟩ := hk
  have hmin' : 16 ≤ s.latch.bits := hmin
  omega

/-- A legal bit size is at most W (44_keypair_fsm.md R93). -/
theorem State.KeygenRuns.two_pow_bits_le (hk : s.KeygenRuns) : 2 ^ s.latch.bits ≤ 2 ^ s.params.maxBits := by
  obtain ⟨-, -, -, hmax⟩ := hk
  exact Nat.pow_le_pow_right (by omega) hmax

theorem State.KeygenRuns.le_two_pow (hk : s.KeygenRuns) : 128 ≤ 2 ^ (s.latch.bits / 2 - 1) := by
  have h8 := hk.half.1
  exact Nat.pow_le_pow_right (n := 2) (i := 7) (by omega) (by omega)

/-- p and q have exactly half the bits (44_keypair_fsm.md R102). -/
theorem State.PrimesLatched.bounds (h : s.PrimesLatched) :
    (2 ^ (s.latch.bits / 2 - 1) < s.seq.key.p ∧ s.seq.key.p < 2 ^ (s.latch.bits / 2)) ∧
    (2 ^ (s.latch.bits / 2 - 1) < s.seq.key.q ∧ s.seq.key.q < 2 ^ (s.latch.bits / 2)) := by
  obtain ⟨hplo, hphi, hqlo, hqhi, -⟩ := h
  exact ⟨⟨candLo_le_iff.mp hplo, le_candHi_iff.mp hphi⟩, candLo_le_iff.mp hqlo, le_candHi_iff.mp hqhi⟩

section
variable (hk : s.KeygenRuns) (hpq : s.PrimesLatched)
include hk hpq

theorem State.PrimesLatched.large : 128 < s.seq.key.p ∧ 128 < s.seq.key.q := by
  obtain ⟨⟨hp, -⟩, hq, -⟩ := hpq.bounds
  exact ⟨hk.le_two_pow.trans_lt hp, hk.le_two_pow.trans_lt hq⟩

theorem State.PrimesLatched.mul_bounds :
    2 ^ (s.latch.bits - 2) < s.seq.key.p * s.seq.key.q ∧ s.seq.key.p * s.seq.key.q < 2 ^ s.latch.bits := by
  obtain ⟨h8, hhalf⟩ := hk.half
  obtain ⟨hp, hq⟩ := hpq.bounds
  have h := two_pow_lt_mul_lt (by omega) hp hq
  rwa [hhalf] at h

/-- λ lies between p - 1 and n (44_keypair_fsm.md R95). -/
theorem State.PrimesLatched.lam_bounds (hn : s.seq.key.ModulusKnown) :
    128 ≤ s.seq.key.lam ∧ s.seq.key.lam < s.seq.key.n := by
  obtain ⟨hp, hq⟩ := hpq.large hk
  obtain ⟨hn, hlam⟩ := hn
  have hle := pred_le_lcm_pred (p := s.seq.key.p) (q := s.seq.key.q) (by omega) (by omega)
  have hlt := lcm_pred_lt_mul (p := s.seq.key.p) (q := s.seq.key.q) (by omega) (by omega)
  omega

end

/-! ### What the keypair registers hold, state by state -/

theorem State.keyInv_of_not_derives (h : s.status.state.derives = false) : s.KeyInv := by
  unfold State.KeyInv
  cases hst : s.status.state <;> simp [SeqState.derives, hst] at h ⊢

theorem State.keyInv_of_modulus (h : s.status.state = .computingModulus) : s.KeyInv ↔ s.PrimesLatched := by
  rw [State.KeyInv, h]

theorem State.keyInv_of_validating (h : s.status.state = .validatingExponent) :
    s.KeyInv ↔ s.PrimesLatched ∧ s.seq.key.ModulusKnown := by
  rw [State.KeyInv, h]

theorem State.keyInv_of_private (h : s.status.state = .computingPrivateExponent) :
    s.KeyInv ↔ s.PrimesLatched ∧ s.seq.key.ModulusKnown ∧ s.seq.key.ExponentValid := by
  rw [State.KeyInv, h]

theorem State.keyInv_of_done (h : s.status.state = .done) :
    s.KeyInv ↔ s.PrimesLatched ∧ s.seq.key.ModulusKnown ∧ s.seq.key.ExponentValid ∧ s.seq.key.PrivateKnown := by
  rw [State.KeyInv, h]

end

/-- Settles O40. -/
theorem keygenModulusStep : Obligations.KeygenModulusStep := by
  intro s hs hkey hst
  obtain ⟨hb, hk⟩ := hs.keygenRuns (hst ▸ rfl)
  have hpq := (State.keyInv_of_modulus hst).mp hkey
  obtain ⟨hp, hq⟩ := hpq.large hk
  obtain ⟨⟨hplo, -⟩, hqlo, -⟩ := hpq.bounds
  rw [exec_keygen_of_busy hb, runKeygen_of_modulus hst, keygenModulus_eq]
  exact ⟨_, rfl, rfl, rfl, (hpq.mul_bounds hk).2, hk.two_pow_bits_le,
    lcm_pred_lt_mul (by omega) (by omega), Nat.le_sub_one_of_lt hplo, Nat.le_sub_one_of_lt hqlo, hk.le_two_pow⟩

/-! ### The back-edge (R97) -/

theorem prime_65537 : Nat.Prime 65537 := by norm_num

/-- The exponent test fails where λ is a multiple of 65537 (44_keypair_fsm.md R97). -/
theorem gcd_65537_lcm_ne_one_iff (a b : Nat) : Nat.gcd 65537 (Nat.lcm a b) ≠ 1 ↔ 65537 ∣ a ∨ 65537 ∣ b := by
  rw [← prime_65537.dvd_lcm, prime_65537.dvd_iff_not_coprime, Nat.coprime_iff_gcd_eq_one]

/-- No prime below 2^19 is 1 modulo 65537: the seven values 65537 k + 1 there are composite (44_keypair_fsm.md R97). -/
theorem not_prime_of_dvd_pred {p : Nat} (h2 : 2 ≤ p) (hlt : p < 2 ^ 19) (hdvd : 65537 ∣ p - 1) : ¬Nat.Prime p := by
  obtain ⟨k, hk⟩ := hdvd
  obtain rfl : p = 65537 * k + 1 := by omega
  have hk1 : 1 ≤ k := by omega
  have hk7 : k ≤ 7 := by omega
  interval_cases k <;> norm_num

/-- Settles O42: with at most 38 bits p and q are below 2^19. -/
theorem smallKeysTakeNoBackEdge : Obligations.SmallKeysTakeNoBackEdge := by
  intro s hs hkey hst
  obtain ⟨hb, hk⟩ := hs.keygenRuns (hst ▸ rfl)
  obtain ⟨hpq, -, hlam⟩ := (State.keyInv_of_validating hst).mp hkey
  have htest := gcd_65537_lcm_ne_one_iff (s.seq.key.p - 1) (s.seq.key.q - 1)
  rw [← hlam] at htest
  refine ⟨htest, fun hsmall hp hq => ?_⟩
  have hcop : Nat.gcd 65537 s.seq.key.lam = 1 := by
    obtain ⟨⟨-, hphi⟩, -, hqhi⟩ := hpq.bounds
    have h19 : 2 ^ (s.latch.bits / 2) ≤ 2 ^ 19 := Nat.pow_le_pow_right (by omega) (by omega)
    by_contra hne
    rcases htest.mp hne with hdvd | hdvd
    · exact not_prime_of_dvd_pred hp.two_le (hphi.trans_le h19) hdvd hp
    · exact not_prime_of_dvd_pred hq.two_le (hqhi.trans_le h19) hdvd hq
  obtain ⟨t, ht, hstatus, -⟩ := (keygenValidateStep s hb hst).1 hcop
  exact ⟨t, ht, congrArg Status.state hstatus⟩

/-- Settles O43, by whether q is coprime to p. -/
theorem keygenPrivateStep : Obligations.KeygenPrivateStep := by
  intro s hs hkey hst
  obtain ⟨hb, hk⟩ := hs.keygenRuns (hst ▸ rfl)
  obtain ⟨hpq, hn, he65537, he⟩ := (State.keyInv_of_private hst).mp hkey
  obtain ⟨hp, -⟩ := hpq.large hk
  obtain ⟨hlam, -⟩ := hpq.lam_bounds hk hn
  rw [exec_keygen_of_busy hb, runKeygen_of_private hst]
  refine ⟨fun hqp => ?coprime, fun hqp => ?notCoprime, fun heq => ?equal⟩
  case coprime =>
    obtain ⟨d, v, ⟨hd, hdlt, -, -, hqInv, hqlt⟩, hrun⟩ := keygenPrivate_of_coprime (by omega) (by omega) he hqp
    exact ⟨_, congrArg _ hrun, rfl, he65537 ▸ hd, hdlt, rfl, rfl, hqInv, hqlt, rfl, rfl, rfl, rfl⟩
  case notCoprime => exact ⟨_, congrArg _ (keygenPrivate_of_not_coprime (by omega) hqp), rfl, rfl⟩
  case equal =>
    rw [← heq, Nat.gcd_self]
    omega

/-! ### Every step keeps them -/

theorem State.keyInv_controlPart (s : State) : s.controlPart.KeyInv ↔ s.KeyInv := Iff.rfl

theorem State.KeyInv.of_controlPart {r s : State} (hs : s.KeyInv) (h : r.controlPart = s.controlPart) : r.KeyInv := by
  rwa [← State.keyInv_controlPart, h, State.keyInv_controlPart]

/-- The sequencer's step of a running KEYGEN keeps what it has established (44_keypair_fsm.md R94 to R98). -/
theorem runKeygen_keyInv {s : State} (hs : s.ControlInv) (hkey : s.KeyInv) : (runKeygen s).KeyInv := by
  cases hst : s.status.state with
  | idle | exec =>
    rw [runKeygen, hst]
    exact hkey
  | searchingPrimes =>
    obtain ⟨-, -, -, ⟨-, -, -, h0⟩, ⟨-, -, -, h1⟩, -⟩ := (State.controlInv_of_searching hst).mp hs
    rw [runKeygen_of_searching hst, keygenJoin]
    split_ifs with hfail hfound
    · exact State.keyInv_of_not_derives rfl
    · obtain ⟨hfound0, hfound1⟩ := Bool.and_eq_true_iff.mp hfound
      obtain ⟨hplo, hphi, hp⟩ := h0 hfound0
      obtain ⟨hqlo, hqhi, hq⟩ := h1 hfound1
      exact (State.keyInv_of_modulus rfl).mpr ⟨hplo, hphi, hqlo, hqhi, hp, hq⟩
    · exact hkey
  | computingModulus =>
    have hpq := (State.keyInv_of_modulus hst).mp hkey
    rw [runKeygen_of_modulus hst, keygenModulus_eq]
    exact (State.keyInv_of_validating rfl).mpr ⟨hpq, rfl, rfl⟩
  | validatingExponent =>
    obtain ⟨hpq, hn⟩ := (State.keyInv_of_validating hst).mp hkey
    rw [runKeygen_of_validating hst]
    by_cases hgcd : Nat.gcd 65537 s.seq.key.lam = 1
    · rw [keygenValidate_of_coprime hgcd]
      exact (State.keyInv_of_private rfl).mpr ⟨hpq, hn, rfl, hgcd⟩
    · by_cases hcap : s.latch.restartCap ≠ 0 ∧ s.cntRestart.toNat = s.latch.restartCap
      · rw [keygenValidate_of_cap hgcd hcap.1 hcap.2]
        exact State.keyInv_of_not_derives rfl
      · rw [keygenValidate_of_restart hgcd (by tauto)]
        exact State.keyInv_of_not_derives rfl
  | computingPrivateExponent =>
    obtain ⟨-, hk⟩ := hs.keygenRuns (hst ▸ rfl)
    obtain ⟨hpq, hn, he65537, he⟩ := (State.keyInv_of_private hst).mp hkey
    obtain ⟨hp, -⟩ := hpq.large hk
    obtain ⟨hlam, -⟩ := hpq.lam_bounds hk hn
    rw [runKeygen_of_private hst]
    by_cases hqp : Nat.gcd s.seq.key.q s.seq.key.p = 1
    · obtain ⟨d, v, hpriv, hrun⟩ := keygenPrivate_of_coprime (by omega) (by omega) he hqp
      rw [hrun]
      exact (State.keyInv_of_done rfl).mpr ⟨hpq, hn, ⟨he65537, he⟩, hpriv⟩
    · rw [keygenPrivate_of_not_coprime (by omega) hqp]
      exact State.keyInv_of_not_derives rfl
  | done =>
    rw [runKeygen_of_done hst]
    exact State.keyInv_of_not_derives rfl

/-- Settles O59, way by way a step changes the control state. -/
theorem keyInvKept : Obligations.KeyInvKept := by
  intro s t hs hkey h
  obtain ⟨r, hr, hstep⟩ := step_control_cases hs.1 h
  replace hs := hs.of_controlPart hr
  replace hkey := hkey.of_controlPart hr
  cases hstep with
  | same h => exact hkey.of_controlPart h
  | reset hst => exact State.keyInv_of_not_derives (hst ▸ rfl)
  | refused e _ _ hst => exact State.keyInv_of_not_derives (hst ▸ rfl)
  | started w i _ _ _ ht =>
    refine State.keyInv_of_not_derives ?_
    rw [ht, Instr.status_start, Status.started]
    split <;> rfl
  | ran i _ _ ht =>
    subst ht
    by_cases hi : i = .keygen
    · subst hi
      exact runKeygen_keyInv hs hkey
    · rcases Instr.run_cases_of_ne_keygen hi r with h | ⟨⟨e, -, h⟩ | ⟨v, h⟩, -⟩
      · exact h.symm ▸ hkey
      · exact State.keyInv_of_not_derives (h ▸ rfl)
      · exact State.keyInv_of_not_derives (h ▸ rfl)
  | searched u _ ht =>
    obtain ⟨-, -, -, -, -, hstatus, -, -, -, hlatch, hseq⟩ := State.searchStep_frame u r
    simpa only [ht, State.KeyInv, State.PrimesLatched, hstatus, hlatch, hseq] using hkey

/-! ### The commit (R100, R102) -/

/-- The bytes of a register that has just been written, as a number (20_memory.md R44). -/
theorem Memory.leNat_readBytes_writeBr (p : Params) (m : Memory) (i : Nat) {v : Nat} (hv : v < 2 ^ p.maxBits) :
    leNat ((m.writeBr p i v).readBytes (4 * p.maxWords) (brOffset i)) = v := by
  have h := Memory.readBytes_splice_same m (brOffset i) (leBytes (4 * p.maxWords) v)
  rw [leBytes_length] at h
  rw [Memory.writeBr, h, leNat_leBytes _ _ (by rwa [pow_brBytes])]

/-- The bytes of one of several registers written together, no register twice. -/
theorem Memory.leNat_readBytes_writeBrs (p : Params) (m : Memory) {ws : List (Nat × Nat)} {i v : Nat}
    (hnodup : (ws.map Prod.fst).Nodup) (hmem : (i, v) ∈ ws) (hv : v < 2 ^ p.maxBits) :
    leNat ((m.writeBrs p ws).readBytes (4 * p.maxWords) (brOffset i)) = v := by
  induction ws generalizing m with
  | nil => exact absurd hmem List.not_mem_nil
  | cons w ws ih =>
    obtain ⟨hnew, hrest⟩ := List.nodup_cons.mp hnodup
    rw [Memory.writeBrs]
    rcases List.mem_cons.mp hmem with rfl | hmem
    · rw [Memory.readBytes_writeBrs_other p _ ws fun w hw heq => hnew (List.mem_map.mpr ⟨w, hw, heq.symm⟩),
        Memory.leNat_readBytes_writeBr p m i hv]
    · exact ih _ hrest hmem

/-- x[i] after a commit of several registers, each a W-bit value and no register twice (50_host_interface.md R109). -/
theorem State.readBr_commit_of_mem (s : State) {ws : List (Nat × Nat)} (r : Bool) (hnodup : (ws.map Prod.fst).Nodup)
    (hfits : ∀ w ∈ ws, w.2 < 2 ^ s.params.maxBits) {i v : Nat} (hmem : (i, v) ∈ ws) : (s.commit ws r).readBr i = v :=
  Memory.leNat_readBytes_writeBrs s.params s.mem hnodup hmem (hfits _ hmem)

theorem KeyRegs.results_nodup (k : KeyRegs) : (k.results.map Prod.fst).Nodup :=
  (by decide : [0, 1, 2, 3, 4, 5, 6, 7, 8].Nodup)

/-- Every result of KEYGEN fits a big register: e by the least width, the others because they are at most n
(44_keypair_fsm.md R95, R103). -/
theorem State.results_fit {s : State} (hk : s.KeygenRuns) (hpq : s.PrimesLatched) (hn : s.seq.key.ModulusKnown)
    (he : s.seq.key.ExponentValid) (hd : s.seq.key.PrivateKnown) :
    ∀ w ∈ s.seq.key.results, w.2 < 2 ^ s.params.maxBits := by
  obtain ⟨-, hdlt, hdP, hdQ, -, hqInv⟩ := hd
  obtain ⟨-, hlam⟩ := hpq.lam_bounds hk hn
  obtain ⟨hp128, hq128⟩ := hpq.large hk
  have hpn := Nat.le_mul_of_pos_right s.seq.key.p (show 0 < s.seq.key.q by omega)
  have hqn := Nat.le_mul_of_pos_left s.seq.key.q (show 0 < s.seq.key.p by omega)
  obtain ⟨-, hnbits⟩ := hpq.mul_bounds hk
  obtain ⟨hmul, -⟩ := hn
  rw [← hmul] at hpn hqn hnbits
  have hnfits := hnbits.trans_le hk.two_pow_bits_le
  have hefits : s.seq.key.e < 2 ^ s.params.maxBits := by
    have h32 : 2 ^ 32 ≤ 2 ^ s.params.maxBits := Nat.pow_le_pow_right (by omega) (Params.thirtyTwo_le_maxBits s.params)
    obtain ⟨he65537, -⟩ := he
    omega
  have hdPle : s.seq.key.dP ≤ s.seq.key.d := hdP ▸ Nat.mod_le _ _
  have hdQle : s.seq.key.dQ ≤ s.seq.key.d := hdQ ▸ Nat.mod_le _ _
  simp only [KeyRegs.results, List.forall_mem_cons, List.not_mem_nil, false_imp_iff, implies_true, and_true]
  omega

/-- Settles O44: the commit writes the values the invariant speaks of, each of which fits its register. -/
theorem keygenCommitsValidKey : Obligations.KeygenCommitsValidKey := by
  intro s hs hkey hst
  obtain ⟨hb, hk⟩ := hs.keygenRuns (hst ▸ rfl)
  obtain ⟨hpq, hn, he, hd⟩ := (State.keyInv_of_done hst).mp hkey
  have hread : ∀ {i v : Nat}, (i, v) ∈ s.seq.key.results → (s.commit s.seq.key.results false).readBr i = v :=
    State.readBr_commit_of_mem s false s.seq.key.results_nodup (State.results_fit hk hpq hn he hd)
  obtain ⟨⟨hplo, hphi⟩, hqlo, hqhi⟩ := hpq.bounds
  obtain ⟨hnlo, hnhi⟩ := hpq.mul_bounds hk
  obtain ⟨-, -, -, -, hp, hq⟩ := hpq
  obtain ⟨hmul, hlam⟩ := hn
  obtain ⟨he65537, -⟩ := he
  obtain ⟨hd, hdlt, hdP, hdQ, hqInv, hqlt⟩ := hd
  rw [← hmul] at hnlo hnhi
  rw [exec_keygen_of_busy hb, runKeygen_of_done hst]
  refine ⟨_, s.seq.key.n, s.seq.key.e, s.seq.key.d, s.seq.key.p, s.seq.key.q, s.seq.key.dP, s.seq.key.dQ, s.seq.key.qInv,
    s.seq.key.lam, rfl, hread ?_, hread ?_, hread ?_, hread ?_, hread ?_, hread ?_, hread ?_, hread ?_, hread ?_,
    hmul, hp, hq, he65537, hlam, hd, hdlt, hdP, hdQ, hqInv, hqlt, hplo, hphi, hqlo, hqhi, hnlo, hnhi,
    State.commit_status .., rfl, State.commit_cntPg0 .., State.commit_cntPg1 .., State.commit_cntRestart ..⟩
  all_goals simp [KeyRegs.results]

end Sys2Proof.Machine
end

section
/-! PROOFS. The pending completion (50_host_interface.md R109, 60_exceptions.md R117, R121, R122): whatever raises DONE raises
DONE_P with it. -/

namespace Sys2Proof.Machine

section
variable {i : Instr} {s t : State} (h0 : s.status.done = false) (h1 : t.status.done = true)
include h0 h1

/-- DONE is not raised by what leaves it as it was. -/
theorem State.absurd_of_done_eq {P : Prop} (h : t.status.done = s.status.done) : P :=
  absurd (h0.symm.trans (h.symm.trans h1)) Bool.false_ne_true

/-- A running command raises DONE by its commit or its error completion, which raise DONE_P; waiting and the moves of the
KEYGEN FSM leave DONE alone (50_host_interface.md R108, R109, 60_exceptions.md R117). -/
theorem Instr.doneP_of_run_done (h : t = i.run s) : t.irq.doneP = true := by
  have hkept := State.absurd_of_done_eq (P := t.irq.doneP = true) h0 h1
  rcases Instr.run_cases i s with hr | ⟨e, -, hr⟩ | ⟨rd, v, r, src, -, -, hr⟩ | ⟨-, -, hr⟩ | ⟨-, st, k, n, hr⟩ |
    ⟨-, st, k, hr⟩ | ⟨-, k, n, hr⟩ <;> rw [hr] at h
  case inl => exact hkept (by rw [h])
  case inr.inl => rw [h]; rfl
  case inr.inr.inl => rw [h]; rfl
  case inr.inr.inr.inl => rw [h]; rfl
  all_goals exact hkept (by rw [h]; rfl)

/-- exec raises DONE by a DOMAIN completion at the issue or in the running command's step; a command that starts leaves it
at 0. -/
theorem doneP_of_exec_done (h : exec i s = .next t) : t.irq.doneP = true := by
  rcases exec_cases h with ⟨-, ⟨-, ht⟩ | ⟨-, ht⟩⟩ | ⟨-, ht⟩
  · rw [ht]; rfl
  · exact State.absurd_of_done_eq h0 h1 (by rw [ht, Instr.status_start]; rfl)
  · exact Instr.doneP_of_run_done h0 h1 ht

/-- Of the host's accesses only a word written to CMD raises DONE: as ILLEGAL_CMD, or in exec (50_host_interface.md R106). -/
theorem State.doneP_of_perform_done {op : BusOp} (h : s.perform op = .next t) : t.irq.doneP = true := by
  have hkept := State.absurd_of_done_eq (P := t.irq.doneP = true) h0 h1
  rcases State.perform_cases h with ⟨-, ht⟩ | ⟨a, ht⟩ | ⟨a, j, k, -, -, -, -, ht⟩ | ⟨-, ht⟩ | ⟨w, -, -, hcmd⟩ |
    ⟨w, -, ht⟩ | ⟨w, -, ht⟩ | ⟨b, -, ht⟩ | ⟨c, r, -, ht⟩ | ⟨j, k, w, -, -, -, -, ht⟩
  · exact hkept (by rw [ht, h0]; rfl)
  · exact hkept (by rw [ht]; rfl)
  · exact hkept (by rw [ht]; rfl)
  · exact hkept (by rw [ht]; rfl)
  · rcases hcmd with ⟨e, -, ht⟩ | ⟨i, -, hexec⟩
    · rw [ht]; rfl
    · exact doneP_of_exec_done rfl h1 hexec
  · unfold State.writeCtrl at ht
    split at ht
    · exact hkept (by rw [ht, h0]; rfl)
    · exact hkept (by rw [ht]; rfl)
  all_goals exact hkept (by rw [ht]; rfl)

/-- A step that raises DONE raises DONE_P, whoever takes it: a unit's search leaves STATUS alone. -/
theorem doneP_of_step_done (h : step s = .next t) : t.irq.doneP = true := by
  have hkept := State.absurd_of_done_eq (P := t.irq.doneP = true) h0 h1
  rcases step_next_cases h with ht | ⟨ts, k, r, hr, hagent⟩
  · exact hkept (by rw [ht])
  · have hstatus : r.status = s.status := by rw [hr]
    have hr0 : r.status.done = false := by rw [hstatus, h0]
    rcases hagent with ⟨op, rest, -, hop⟩ | ⟨i, -, -, hexec⟩ | ⟨u, -, ht⟩ | ht
    · exact State.doneP_of_perform_done (s := { r with bus := rest }) hr0 h1 hop
    · exact doneP_of_exec_done hr0 h1 hexec
    · obtain ⟨-, -, -, -, -, hsearch, -⟩ := State.searchStep_frame u r
      exact hkept (by rw [ht, hsearch, hstatus])
    · exact hkept (by rw [ht, hstatus])

end

/-- With a completion pending the line is IRQ_EN (60_exceptions.md R122). -/
theorem State.irqLine_of_doneP {s : State} (h : s.irq.doneP = true) : s.irqLine = s.irqEn := by
  simp [State.irqLine, h]

/-- Settles O19: the step that raises DONE raises DONE_P, and then the line is IRQ_EN. -/
theorem completionSetsPending : Obligations.CompletionSetsPending := by
  intro s t h h0 h1
  have hpending := doneP_of_step_done h0 h1 h
  exact ⟨hpending, State.irqLine_of_doneP hpending⟩

end Sys2Proof.Machine
end

section
/-! PROOFS. Precise errors and the interrupt line (60_exceptions.md R117, R121, R122): every error of exec is an error
completion of a state in which no more than the issue has happened; a step lowers IRQ_EN or a pending bit only by a reset or
a host write to CTRL or IRQ. -/

namespace Sys2Proof.Machine

/-! ### Errors are error completions -/

/-- A running command raises ERR by an error completion alone: a commit ends it with ERR 0, and the other moves leave ERR as
it was (50_host_interface.md R109, 60_exceptions.md R117). -/
theorem Instr.run_eq_completeError {i : Instr} {s : State} (h0 : s.status.err = false) (h1 : (i.run s).status.err = true) :
    ∃ e, e ≠ .noError ∧ i.run s = s.completeError e := by
  have absurdOf {P : Prop} (h : (i.run s).status.err = false) : P := absurd (h.symm.trans h1) Bool.false_ne_true
  rcases Instr.run_cases i s with h | herror | ⟨rd, v, r, src, -, -, h⟩ | ⟨-, -, h⟩ | ⟨-, st, k, n, h⟩ | ⟨-, st, k, h⟩ |
    ⟨-, k, n, h⟩
  case inr.inl => exact herror
  case inr.inr.inl => exact absurdOf (by rw [h]; rfl)
  case inr.inr.inr.inl => exact absurdOf (by rw [h]; rfl)
  all_goals exact absurdOf (by rw [h]; exact h0)

/-- exec raises ERR by an error completion: at the issue, of the state with the sources latched; in a running command's step,
of the state as it was (60_exceptions.md R117). -/
theorem exec_eq_completeError {i : Instr} {s t : State} (h0 : s.status.err = false) (h : exec i s = .next t)
    (h1 : t.status.err = true) :
    ∃ e, e ≠ .noError ∧
      ((s.status.busy = false ∧ t = (s.latched i.sources).completeError e) ∨ (s.status.busy = true ∧ t = s.completeError e)) := by
  rcases exec_cases h with ⟨hb, ⟨-, ht⟩ | ⟨-, rfl⟩⟩ | ⟨hb, rfl⟩
  · exact ⟨.domain, nofun, .inl ⟨hb, ht⟩⟩
  · have hstart : (i.start (s.latched i.sources)).status.err = s.status.err := by rw [Instr.status_start]; rfl
    exact absurd (h0.symm.trans (hstart.symm.trans h1)) Bool.false_ne_true
  · obtain ⟨e, he, hrun⟩ := Instr.run_eq_completeError h0 h1
    exact ⟨e, he, .inr ⟨hb, hrun⟩⟩

/-- Settles O48: an error is an error completion, and the latching before it at an issue moves the counters and the latch
alone. -/
theorem errorsArePrecise : Obligations.ErrorsArePrecise := by
  intro i s t h0 h h1
  obtain ⟨e, he, ⟨hb, rfl⟩ | ⟨-, rfl⟩⟩ := exec_eq_completeError h0 h h1
  · simp [Status.failed, he, hb]
  · simp [Status.failed, he]

/-! ### What lowers IRQ_EN or a pending bit -/

/-- IRQ_EN is as it was, and no pending bit fell. -/
structure State.IrqKept (s t : State) : Prop where
  irqEn : t.irqEn = s.irqEn
  doneP : s.irq.doneP = true → t.irq.doneP = true
  wbusyP : s.irq.wbusyP = true → t.irq.wbusyP = true

/-- The three accesses that can lower IRQ_EN or a pending bit: a hardware reset, a write to CTRL, which leaves the pending
bits alone unless it is a soft reset, and a write to IRQ (10_state.md R29, R31, 60_exceptions.md R121, R122). -/
def State.IrqLoweredBy (op : BusOp) (s t : State) : Prop :=
  op = .hardReset ∨
  (∃ w, op = s.writeAt 0x010 w ∧ (w.getLsbD 1 = false → t.irq = s.irq)) ∨
  ∃ w, op = s.writeAt 0x018 w ∧ t.irq = s.irq.clear w

section
variable {s t : State}

theorem State.IrqKept.of_eq (hen : t.irqEn = s.irqEn) (hirq : t.irq = s.irq) : s.IrqKept t :=
  ⟨hen, fun h => hirq ▸ h, fun h => hirq ▸ h⟩

/-- An error completion, of a state with IRQ_EN and IRQ as they were, only raises DONE_P (60_exceptions.md R117). -/
theorem State.IrqKept.completeError {r : State} (e : ErrCode) (hen : r.irqEn = s.irqEn) (hirq : r.irq = s.irq) :
    s.IrqKept (r.completeError e) :=
  ⟨hen, fun _ => rfl, fun h => (congrArg IrqPending.wbusyP hirq).trans h⟩

/-- With IRQ_EN kept and no pending bit fallen, a high line stays high (60_exceptions.md R122). -/
theorem State.IrqKept.irqLine (h : s.IrqKept t) (hline : s.irqLine = true) : t.irqLine = true := by
  simp only [State.irqLine, Bool.and_eq_true, Bool.or_eq_true] at hline ⊢
  obtain ⟨hen, hpending⟩ := hline
  exact ⟨h.irqEn.trans hen, hpending.imp h.doneP h.wbusyP⟩

/-- The sequencer's step of a running command can only raise DONE_P (50_host_interface.md R109, 60_exceptions.md R117). -/
theorem Instr.run_irqKept (i : Instr) (s : State) : s.IrqKept (i.run s) := by
  refine ⟨Instr.irqEn_run i s, fun hdone => ?_, fun hbusy => (Instr.wbusyP_run i s).trans hbusy⟩
  rcases Instr.run_cases i s with h | ⟨e, -, h⟩ | ⟨rd, v, r, src, -, -, h⟩ | ⟨-, -, h⟩ | ⟨-, st, k, n, h⟩ | ⟨-, st, k, h⟩ |
    ⟨-, k, n, h⟩ <;> rw [h]
  case inr.inl | inr.inr.inl | inr.inr.inr.inl => rfl
  all_goals exact hdone

theorem exec_irqKept {i : Instr} (h : exec i s = .next t) : s.IrqKept t := by
  rcases exec_cases h with ⟨-, ⟨-, rfl⟩ | ⟨-, rfl⟩⟩ | ⟨-, rfl⟩
  · exact .completeError .domain (State.latched_irqEn s _) (State.latched_irq s _)
  · exact .of_eq (Instr.irqEn_start i _) (Instr.irq_start i _)
  · exact Instr.run_irqKept i s

theorem State.perform_irq_cases {op : BusOp} (h : s.perform op = .next t) : s.IrqKept t ∨ s.IrqLoweredBy op t := by
  rcases State.perform_cases h with ⟨hop, -⟩ | ⟨a, rfl⟩ | ⟨a, i, j, -, -, -, -, rfl⟩ | ⟨-, rfl⟩ | ⟨w, -, -, hcmd⟩ |
    ⟨w, hop, rfl⟩ | ⟨w, hop, rfl⟩ | ⟨b, -, rfl⟩ | ⟨c, r, -, rfl⟩ | ⟨i, j, w, -, -, -, -, rfl⟩
  · exact .inr (.inl hop)
  · exact .inl (.of_eq rfl rfl)
  · exact .inl (.of_eq rfl rfl)
  · exact .inl ⟨rfl, id, fun _ => rfl⟩
  · rcases hcmd with ⟨e, -, rfl⟩ | ⟨i, -, hexec⟩
    · exact .inl (.completeError .illegalCmd rfl rfl)
    · obtain ⟨hen, hdone, hbusy⟩ := exec_irqKept hexec
      exact .inl ⟨hen, hdone, hbusy⟩
  · exact .inr (.inr (.inl ⟨w, hop, fun hw => by rw [State.writeCtrl, if_neg (by rw [hw]; decide)]; rfl⟩))
  · exact .inr (.inr (.inr ⟨w, hop, rfl⟩))
  all_goals exact .inl (.of_eq rfl rfl)

/-- A step keeps IRQ_EN and the pending bits up, or it performs the access at the head of the bus, which lowers one. -/
theorem step_irq_cases (h : step s = .next t) : s.IrqKept t ∨ ∃ op, s.bus.head? = some op ∧ s.IrqLoweredBy op t := by
  rcases step_next_cases h with rfl | ⟨ts, k, r, rfl, ⟨op, rest, hbus, hop⟩ | ⟨i, -, -, hexec⟩ | ⟨u, -, rfl⟩ | rfl⟩
  · exact .inl (.of_eq rfl rfl)
  · rcases State.perform_irq_cases hop with ⟨hen, hdone, hbusy⟩ | hlow
    · exact .inl ⟨hen, hdone, hbusy⟩
    · exact .inr ⟨op, by rw [hbus]; rfl, hlow⟩
  · obtain ⟨hen, hdone, hbusy⟩ := exec_irqKept hexec
    exact .inl ⟨hen, hdone, hbusy⟩
  · obtain ⟨-, -, -, -, -, -, hen, hirq, -⟩ := State.searchStep_frame u { s with turns := ts, schedTaken := k }
    exact .inl (.of_eq hen hirq)
  · exact .inl (.of_eq rfl rfl)

/-- A pending bit `p` that fell in a step: the access was a hardware reset, a soft reset, or a write of IRQ, which keeps the
bit unless its bit `n` is 1 (60_exceptions.md R121). -/
theorem pending_fell_cases {p : IrqPending → Bool} {n : Nat} (h : step s = .next t)
    (hkept : s.IrqKept t → p s.irq = true → p t.irq = true) (hclear : ∀ w q, p (IrqPending.clear w q) = (p q && !w.getLsbD n))
    (h0 : p s.irq = true) (h1 : p t.irq = false) :
    s.bus.head? = some .hardReset ∨ (∃ w : Word, w.getLsbD n = true ∧ s.bus.head? = some (s.writeAt 0x018 w)) ∨
      ∃ w : Word, w.getLsbD 1 = true ∧ s.bus.head? = some (s.writeAt 0x010 w) := by
  have hne : t.irq ≠ s.irq := fun heq => absurd (h1.symm.trans (heq ▸ h0)) Bool.false_ne_true
  rcases step_irq_cases h with hk | ⟨op, hop, rfl | ⟨w, rfl, hw⟩ | ⟨w, rfl, hw⟩⟩
  · exact absurd (h1.symm.trans (hkept hk h0)) Bool.false_ne_true
  · exact .inl hop
  · exact .inr (.inr ⟨w, Bool.eq_true_of_not_eq_false fun hbit => hne (hw hbit), hop⟩)
  · rw [hw, hclear, h0, Bool.true_and, Bool.not_eq_false'] at h1
    exact .inr (.inl ⟨w, h1, hop⟩)

end

/-- Settles O18, bit by bit. -/
theorem pendingBitsClearedOnly : Obligations.PendingBitsClearedOnly := fun _ _ h =>
  ⟨pending_fell_cases (p := IrqPending.doneP) h State.IrqKept.doneP fun _ _ => rfl,
    pending_fell_cases (p := IrqPending.wbusyP) h State.IrqKept.wbusyP fun _ _ => rfl⟩

/-- Settles O17: a step that keeps IRQ_EN and the pending bits keeps a high line high. -/
theorem interruptLineRule : Obligations.InterruptLineRule := by
  refine ⟨fun _ => rfl, fun s t h hhigh hlow => ?lowered, fun _ => ⟨rfl, rfl⟩, fun s w hw => ?masked⟩
  case lowered =>
    rcases step_irq_cases h with hk | ⟨op, hop, rfl | ⟨w, rfl, -⟩ | ⟨w, rfl, -⟩⟩
    · exact absurd (hlow.symm.trans (hk.irqLine hhigh)) Bool.false_ne_true
    · exact .inl hop
    · exact .inr ⟨w, .inl hop⟩
    · exact .inr ⟨w, .inr hop⟩
  case masked => exact ⟨_, State.perform_writeAt_ctrl_irqEn s hw, rfl, rfl⟩

end Sys2Proof.Machine
end

section
/-! PROOFS. Resets and progress (70_reset_and_hazards.md R129, R130, R134): what the two resets leave, and that every step
keeps the attempt counters within their caps. -/

namespace Sys2Proof.Machine

/-! ### The two resets (R129, R130) -/

/-- Settles O15. -/
theorem softResetEffect : Obligations.SoftResetEffect := fun s _ hbit =>
  ⟨_, State.perform_writeAt_ctrl_softReset s hbit, rfl, rfl⟩

theorem State.perform_hardReset (s : State) : s.perform .hardReset = .next s.hardReset := rfl

/-- A hardware reset clears every written bit (10_state.md R19). -/
@[simp] theorem State.written_hardReset (s : State) (i j : Nat) : s.hardReset.written i j = false := BitVec.getLsbD_zero

/-- Settles O16. -/
theorem hardResetEffect : Obligations.HardResetEffect := fun s =>
  ⟨_, s.perform_hardReset, rfl, rfl, s.written_hardReset⟩

/-! ### What the caps speak of -/

/-- The state with all but BUSY, the latch and the counters as after reset: what the invariant of the caps speaks of. -/
def State.capPart (s : State) : State :=
  { State.reset with
    status := { Status.reset with busy := s.status.busy }
    latch := s.latch, cntPg0 := s.cntPg0, cntPg1 := s.cntPg1, cntRestart := s.cntRestart }

theorem State.capInv_capPart (s : State) : s.capPart.CapInv ↔ s.CapInv := Iff.rfl

section
variable {s t : State}

theorem State.CapInv.of_capPart (hs : s.CapInv) (h : t.capPart = s.capPart) : t.CapInv := by
  rwa [← State.capInv_capPart, h, State.capInv_capPart]

theorem State.capInv_of_idle (h : t.status.busy = false) : t.CapInv := fun hb =>
  absurd (h.symm.trans hb) Bool.false_ne_true

/-- Counters at 0 are within every cap. -/
theorem State.capInv_of_zero (h0 : t.cntPg0 = 0) (h1 : t.cntPg1 = 0) (hr : t.cntRestart = 0) : t.CapInv := fun _ => by
  simp [h0, h1, hr]

/-- A counter below its cap can be counted once more. -/
theorem satInc_toNat_le {c : Word} {cap : Nat} (hle : c.toNat ≤ cap) (hne : c.toNat ≠ cap) : (satInc c).toNat ≤ cap := by
  rw [satInc_toNat]
  omega

/-! ### Each part of a step keeps the counters within their caps -/

/-- A unit at its cap reports Fail and does not count (43_prime_generator.md R87). -/
theorem State.CapInv.searchStep (hs : s.CapInv) (u : UnitId) : (s.searchStep u).CapInv := by
  rcases State.searchStep_cases u s with ⟨-, -, h⟩ | ⟨hopen, w, r, -, -, h⟩ <;> rw [h]
  · exact hs.of_capPart (by cases u <;> rfl)
  · have hcount (hcap : s.latch.candCap ≠ 0) (hle : (s.cntPg u).toNat ≤ s.latch.candCap) :
        (satInc (s.cntPg u)).toNat ≤ s.latch.candCap := satInc_toNat_le hle fun heq => hopen ⟨hcap, heq⟩
    intro hb
    obtain ⟨hcand, hrestart⟩ := hs (by cases u <;> exact hb)
    cases u with
    | u0 => exact ⟨fun hcap => ⟨hcount hcap (hcand hcap).1, (hcand hcap).2⟩, hrestart⟩
    | u1 => exact ⟨fun hcap => ⟨(hcand hcap).1, hcount hcap (hcand hcap).2⟩, hrestart⟩

/-- KEYGEN at its restart cap ends with an error; below it, CNT_RESTART alone counts (44_keypair_fsm.md R96). -/
theorem State.CapInv.keygenValidate (hs : s.CapInv) (hb : s.status.busy = true) : (keygenValidate s).CapInv := by
  by_cases hgcd : Nat.gcd 65537 s.seq.key.lam = 1
  · rw [keygenValidate_of_coprime hgcd]
    exact hs.of_capPart rfl
  · by_cases hatCap : s.latch.restartCap ≠ 0 ∧ s.cntRestart.toNat = s.latch.restartCap
    · rw [keygenValidate_of_cap hgcd hatCap.1 hatCap.2]
      exact State.capInv_of_idle rfl
    · rw [keygenValidate_of_restart hgcd (by tauto)]
      obtain ⟨hcand, hrestart⟩ := hs hb
      exact fun _ => ⟨hcand, fun hcap => satInc_toNat_le (hrestart hcap) fun heq => hatCap ⟨hcap, heq⟩⟩

theorem State.CapInv.runKeygen (hs : s.CapInv) (hb : s.status.busy = true) : (runKeygen s).CapInv := by
  rcases runKeygen_cases s with h | ⟨-, e, -, h⟩ | ⟨-, h⟩ | ⟨-, k, h⟩ | ⟨st, k, n, -, -, -, h⟩ | ⟨hst, -⟩
  · exact h.symm ▸ hs
  · exact State.capInv_of_idle (by rw [h]; rfl)
  · exact State.capInv_of_idle (by rw [h]; rfl)
  · exact hs.of_capPart (by rw [h]; rfl)
  · exact hs.of_capPart (by rw [h]; rfl)
  · exact runKeygen_of_validating hst ▸ hs.keygenValidate hb

theorem State.CapInv.run (hs : s.CapInv) (hb : s.status.busy = true) (i : Instr) : (i.run s).CapInv := by
  by_cases hi : i = .keygen
  · exact hi ▸ hs.runKeygen hb
  · rcases Instr.run_cases_of_ne_keygen hi s with h | ⟨⟨e, -, h⟩ | ⟨r, h⟩, -⟩
    · exact h.symm ▸ hs
    · exact State.capInv_of_idle (by rw [h]; rfl)
    · exact State.capInv_of_idle (by rw [h]; rfl)

/-- An issue sets the counters to 0 before the command starts (50_host_interface.md R106). -/
theorem State.CapInv.exec {i : Instr} (hs : s.CapInv) (h : exec i s = .next t) : t.CapInv := by
  rcases exec_cases h with ⟨-, ⟨-, rfl⟩ | ⟨-, rfl⟩⟩ | ⟨hb, rfl⟩
  · exact State.capInv_of_idle rfl
  · exact State.capInv_of_zero (by simp) (by simp) (by simp)
  · exact hs.run hb i

/-- A write to ATTEMPT_CAP changes no running command's caps, which are in the latch (10_state.md R32, R36). -/
theorem State.CapInv.perform {op : BusOp} (hs : s.CapInv) (h : s.perform op = .next t) : t.CapInv := by
  rcases State.perform_cases h with ⟨-, rfl⟩ | ⟨a, rfl⟩ | ⟨a, i, j, -, -, -, -, rfl⟩ | ⟨-, rfl⟩ |
    ⟨w, -, -, ⟨e, -, rfl⟩ | ⟨i, -, hexec⟩⟩ | ⟨w, -, rfl⟩ | ⟨w, -, rfl⟩ | ⟨b, -, rfl⟩ | ⟨c, r, -, rfl⟩ |
    ⟨i, j, w, -, -, -, -, rfl⟩
  · exact State.capInv_of_idle rfl
  · exact hs.of_capPart rfl
  · exact hs.of_capPart rfl
  · exact hs.of_capPart rfl
  · exact State.capInv_of_idle rfl
  · have haccepted : ((s.answer .written).acceptWord w).CapInv := hs.of_capPart rfl
    exact haccepted.exec hexec
  · unfold State.writeCtrl
    split
    · exact State.capInv_of_idle rfl
    · exact hs.of_capPart rfl
  all_goals exact hs.of_capPart rfl

end

/-- Settles O60, agent by agent: the counter that reaches its cap ends the attempt before it counts again. -/
theorem capInvKept : Obligations.CapInvKept := by
  intro s t hs h
  rcases step_next_cases h with rfl | ⟨ts, k, r, hr, hagent⟩
  · exact hs
  · have hmoved : r.CapInv := hs.of_capPart (by rw [hr]; rfl)
    rcases hagent with ⟨op, rest, -, hop⟩ | ⟨i, -, -, hexec⟩ | ⟨u, -, rfl⟩ | rfl
    · have hpopped : ({ r with bus := rest } : State).CapInv := hmoved.of_capPart rfl
      exact hpopped.perform hop
    · exact hmoved.exec hexec
    · exact hmoved.searchStep u
    · exact hmoved

end Sys2Proof.Machine
end
